-- ==== Sys2Proof/Word.lean ====
section
/-!
DEFINITION. The two word types of QRC: 32-bit registers and bus values (00_scope.md R5) and 8-bit
codewords, which are also the field elements of GF(256) (41_gf256.md R160).
-/

namespace Sys2Proof

/-- A register, a command word or a value on the bus (00_scope.md R5: "register width 32 bits"). -/
abbrev Word := BitVec 32

/-- A codeword, a field element or a byte of a buffer (00_scope.md R5: "codeword width 8 bits"). -/
abbrev Byte := BitVec 8

/-- A block address: QRC's address space has 16-bit byte addresses (20_memory.md R80). -/
abbrev Addr := BitVec 16

end Sys2Proof
end

