-- ==== Sys2Proof/Syntax.lean ====
section
/-!
DEFINITION. The commands of QRC: one constructor for every row of spec/opcode_table.json
(30_encoding.md R113). An operand is the 8-bit field that carries it (R111: an integer 0–255), so no
operand can be out of the encoding's range; a value out of a command's own range is that command's
BADARG (R115).
-/

namespace Sys2Proof

/-- The 14 commands, with the operand names of 30_encoding.md R113 and R118. -/
inductive Instr where
  /-- 0x00 NOP (40_control.md R147). -/
  | nop
  /-- 0x01 GFMUL a, b (41_gf256.md R166). -/
  | gfmul (a b : Byte)
  /-- 0x02 GFEXP e (41_gf256.md R167). -/
  | gfexp (e : Byte)
  /-- 0x03 GFLOG a (41_gf256.md R168). -/
  | gflog (a : Byte)
  /-- 0x04 GFINV a (41_gf256.md R169). -/
  | gfinv (a : Byte)
  /-- 0x10 RSGEN n (42_reed_solomon.md R182). -/
  | rsgen (n : Byte)
  /-- 0x11 RSENC n, k (42_reed_solomon.md R184). -/
  | rsenc (n k : Byte)
  /-- 0x12 RSSYN n, L (42_reed_solomon.md R186). -/
  | rssyn (n l : Byte)
  /-- 0x13 ECCBLK (42_reed_solomon.md R190). -/
  | eccblk
  /-- 0x20 MXINIT (43_matrix.md R211). -/
  | mxinit
  /-- 0x21 MXPLACE (43_matrix.md R225). -/
  | mxplace
  /-- 0x22 MXMASK k (44_mask.md R253). -/
  | mxmask (k : Byte)
  /-- 0x23 MXSCORE k (44_mask.md R260). -/
  | mxscore (k : Byte)
  /-- 0x24 MXSELECT (44_mask.md R261). -/
  | mxselect
  deriving DecidableEq, Repr

end Sys2Proof
end

