-- ==== Sys2Proof/WellFormed.lean ====
section
/-!
DEFINITION. Which command words are commands: the fields of the one format (30_encoding.md R110) and the
checks of R114, R115 and R117 on them. A word whose fields fail a check is launched like any other and
completes with BADOPC; the check's name says which rule it broke.
-/

namespace Sys2Proof

/-- The four 8-bit fields of a command word (30_encoding.md R110). -/
structure Fields where
  opc : Byte
  a : Byte
  b : Byte
  c : Byte
  deriving DecidableEq, Repr

/-- Why a word is not a command. Every one of these completes with BADOPC (30_encoding.md R114, R115). -/
inductive DecodeError where
  /-- The opcode is not in the map of R113 (R114). -/
  | reservedOpc
  /-- The reserved field C is not 0 (R115). -/
  | nonzeroC
  /-- The command does not use A and A is not 0 (R115). -/
  | unusedA
  /-- The command does not use B and B is not 0 (R115). -/
  | unusedB
  deriving DecidableEq, Repr

/-- The opcodes of 30_encoding.md R113. -/
def listedOpcodes : List Byte :=
  [0x00, 0x01, 0x02, 0x03, 0x04, 0x10, 0x11, 0x12, 0x13, 0x20, 0x21, 0x22, 0x23, 0x24]

/-- The opcodes whose A field is an operand (30_encoding.md R117, usesA). -/
def opcodesUsingA : List Byte := [0x01, 0x02, 0x03, 0x04, 0x10, 0x11, 0x12, 0x22, 0x23]

/-- The opcodes whose B field is an operand (30_encoding.md R117, usesB). -/
def opcodesUsingB : List Byte := [0x01, 0x11, 0x12]

/-- The checks of 30_encoding.md R117, in its order; `none` when the fields are a command's. -/
def Fields.problem (f : Fields) : Option DecodeError :=
  if f.opc ∉ listedOpcodes then some .reservedOpc
  else if f.c ≠ 0 then some .nonzeroC
  else if f.opc ∉ opcodesUsingA ∧ f.a ≠ 0 then some .unusedA
  else if f.opc ∉ opcodesUsingB ∧ f.b ≠ 0 then some .unusedB
  else none

/-- The fields are those of a command. -/
abbrev Fields.WellFormed (f : Fields) : Prop := f.problem = none

/-- The fields of a command: the rows of 30_encoding.md R113. -/
def Instr.fields : Instr → Fields
  | .nop => ⟨0x00, 0, 0, 0⟩
  | .gfmul a b => ⟨0x01, a, b, 0⟩
  | .gfexp e => ⟨0x02, e, 0, 0⟩
  | .gflog a => ⟨0x03, a, 0, 0⟩
  | .gfinv a => ⟨0x04, a, 0, 0⟩
  | .rsgen n => ⟨0x10, n, 0, 0⟩
  | .rsenc n k => ⟨0x11, n, k, 0⟩
  | .rssyn n l => ⟨0x12, n, l, 0⟩
  | .eccblk => ⟨0x13, 0, 0, 0⟩
  | .mxinit => ⟨0x20, 0, 0, 0⟩
  | .mxplace => ⟨0x21, 0, 0, 0⟩
  | .mxmask k => ⟨0x22, k, 0, 0⟩
  | .mxscore k => ⟨0x23, k, 0, 0⟩
  | .mxselect => ⟨0x24, 0, 0, 0⟩

/-- A command is well formed when its fields are. Every command is, since an operand is its field. -/
abbrev Instr.WellFormed (i : Instr) : Prop := i.fields.WellFormed

end Sys2Proof
end

