-- ==== Sys2Proof/Decode.lean ====
section
/-!
DEFINITION. Decoding a command word and encoding a command (30_encoding.md R110–R117). Decoding is total
on the 32-bit words and rejects by name; the encoder is written from the same map R113.
-/

namespace Sys2Proof

/-- The fields of a word (30_encoding.md R110: OPC [7:0], A [15:8], B [23:16], C [31:24]). -/
def Fields.ofWord (w : Word) : Fields where
  opc := w.extractLsb' 0 8
  a := w.extractLsb' 8 8
  b := w.extractLsb' 16 8
  c := w.extractLsb' 24 8

/-- The 32-bit value with the bytes `b0` in bits [7:0], `b1` in [15:8], `b2` in [23:16] and `b3` in [31:24]: `{b3,
b2, b1, b0}` (00_scope.md R6). -/
def packBytes (b0 b1 b2 b3 : Byte) : Word :=
  BitVec.ofNat 32 (b0.toNat + 2 ^ 8 * b1.toNat + 2 ^ 16 * b2.toNat + 2 ^ 24 * b3.toNat)

/-- The word with the given fields: `{C, B, A, OPC}` (30_encoding.md R110, R118). -/
def Fields.toWord (f : Fields) : Word := packBytes f.opc f.a f.b f.c

/-- The command an opcode of the map names, with its operands (30_encoding.md R113). -/
def instrOf (f : Fields) : Option Instr :=
  match f.opc.toNat with
  | 0x00 => some .nop
  | 0x01 => some (.gfmul f.a f.b)
  | 0x02 => some (.gfexp f.a)
  | 0x03 => some (.gflog f.a)
  | 0x04 => some (.gfinv f.a)
  | 0x10 => some (.rsgen f.a)
  | 0x11 => some (.rsenc f.a f.b)
  | 0x12 => some (.rssyn f.a f.b)
  | 0x13 => some .eccblk
  | 0x20 => some .mxinit
  | 0x21 => some .mxplace
  | 0x22 => some (.mxmask f.a)
  | 0x23 => some (.mxscore f.a)
  | 0x24 => some .mxselect
  | _ => none

/-- Decode fields: the checks of R117, then the map R113. -/
def decodeFields (f : Fields) : Except DecodeError Instr :=
  match f.problem with
  | some e => .error e
  | none =>
    match instrOf f with
    | some i => .ok i
    | none => .error .reservedOpc

/-- `decode` of 30_encoding.md R117, total on every 32-bit word. -/
def decode (w : Word) : Except DecodeError Instr := decodeFields (Fields.ofWord w)

/-- The word of a command (30_encoding.md R118: "The assembled word is `{0x00, B, A, OPC}`"). -/
def encode (i : Instr) : Word := i.fields.toWord

/-- The instruction the decoder reads from a row of spec/opcode_table.json: a command is one 32-bit word
whose bits the table numbers as R110 does, so bits above the row's `nbits` are 0. -/
def decodeTableWord (nbits w : Nat) : Option Instr :=
  if nbits ≤ 32 then
    match decode (BitVec.ofNat 32 (w % 2 ^ nbits)) with
    | .ok i => some i
    | .error _ => none
  else none

end Sys2Proof
end

