-- ==== Sys2Proof/Config.lean ====
section
/-!
DEFINITION. What one QRC fixes once (00_scope.md R5) and the values the spec leaves free
(93_implementation_defined.md). A free value is a constant without a body: no proof can see what it is.
-/

namespace Sys2Proof

/-- Bytes of the codeword RAM (00_scope.md R5, D5). -/
abbrev Config.cwSize : Nat := 8192

/-- First byte of the output region of CW (00_scope.md R5, D5). -/
abbrev Config.outBase : Nat := 4096

/-- Bytes of the scratch buffer (00_scope.md R5, D5). -/
abbrev Config.sbSize : Nat := 256

/-- Longest Reed–Solomon block, data and EC codewords together (00_scope.md R5, D12). -/
abbrev Config.rsMaxLen : Nat := 255

/-- The identification constant (10_state.md R35). -/
def Config.idValue : Word := 0x51524331

/-- QRC_BASE: where the block sits on the host's bus, the platform's choice (20_memory.md R80, U8).
Free: log entry 9. -/
opaque Config.qrcBase : Nat

/-- What the buffer byte at a block address holds after the power-on reset with the given number, until
something writes it (10_state.md R63, U1, U2: "any value, each byte independently"). Free: log entry 3. -/
opaque Config.powerOnByte : Nat → Nat → Byte

/-- What the buffer byte at a block address holds after the abandonment with the given number, when the
byte is in the abandoned command's destination range (70_reset_and_hazards.md R323, U5: "its old value,
its new value or any other value"). Free: log entry 4. -/
opaque Config.abandonedByte : Nat → Nat → Byte

end Sys2Proof
end

