-- ==== Sys2Proof/Machine/State.lean ====
section
/-!
DEFINITION. The state of QRC (10_state.md R30), what a run of it can stop with, and the state after reset
(10_state.md R63, 70_reset_and_hazards.md R321).

The CSRs, the buffers, the matrix plane and the matrix latch form the `Store`, because a launch
takes a copy of exactly these as the launch snapshot (40_control.md R141). Only fields with storage of their own
are kept: a reserved bit reads 0 and a write to it is ignored (R33), so a field of its exact width says that;
ID, CMD, MDATA, SRST and BUSY have no storage (R34, R37, R38) and are computed where they are read.
-/

namespace Sys2Proof.Machine

/-- Raised where the spec says `raise BusError(addr)`. -/
inductive Fault where
  /-- Raised by `hostRead` and `hostWrite` for an access 20_memory.md R82 refuses (60_exceptions.md R290).
  `State.access` turns it into the bus's error response, as R290 says, so it never ends a run: safe. -/
  | busError (addr : Addr)
  deriving DecidableEq, Repr

/-- Why an instruction has no meaning. Every command has one, so no step answers a refusal. -/
inductive Refusal where
  /-- Raised by an arm of `exec` whose instruction has no meaning yet; no arm raises it: safe. -/
  | notModelled (mnemonic : String)
  deriving DecidableEq, Repr

/-- The command error codes of 60_exceptions.md R291 (code 0, NONE, is no error). -/
inductive ErrCode where
  | badopc
  | badarg
  | range
  | layout
  | version
  | nomatrix
  | placeMismatch
  deriving DecidableEq, Repr

/-- The CSRs of 10_state.md R34, by name. -/
inductive Csr where
  | id
  | ctrl
  | status
  | cmd
  | version
  | layout0
  | layout1
  | arg0
  | arg1
  | arg2
  | result
  | dmcount
  | pen1
  | pen2
  | pen3
  | pen4
  | pentot
  | maddr
  | mdata
  | score (k : Fin 8)
  deriving DecidableEq, Repr

/-- The CSR fields that have storage, with the widths of 10_state.md R34. -/
structure Csrs where
  /-- csr[CTRL].DONE_IE (R36). -/
  doneIe : Bool
  /-- csr[CTRL].ERR_IE (R36). -/
  errIe : Bool
  /-- csr[STATUS].DONE (R38). -/
  done : Bool
  /-- csr[STATUS].ERR (R38). -/
  err : Bool
  /-- csr[STATUS].ERRCODE (R38). -/
  errcode : BitVec 4
  /-- csr[VERSION].V (R41). -/
  version : BitVec 6
  /-- csr[LAYOUT0].B1 (R42). -/
  b1 : Byte
  /-- csr[LAYOUT0].K1 (R42). -/
  k1 : Byte
  /-- csr[LAYOUT0].B2 (R42). -/
  b2 : Byte
  /-- csr[LAYOUT0].K2 (R42). -/
  k2 : Byte
  /-- csr[LAYOUT1].NEC (R43). -/
  nec : Byte
  /-- csr[ARG0].SRC (R44). -/
  src : BitVec 13
  /-- csr[ARG1].DST (R45). -/
  dst : BitVec 13
  /-- csr[ARG2].LEN (R46). -/
  len : BitVec 14
  /-- csr[RESULT] (R47). -/
  result : Word
  /-- csr[DMCOUNT] (R48). -/
  dmcount : BitVec 15
  /-- csr[PEN1] (R49). -/
  pen1 : Word
  /-- csr[PEN2] (R49). -/
  pen2 : Word
  /-- csr[PEN3] (R49). -/
  pen3 : Word
  /-- csr[PEN4] (R49). -/
  pen4 : Word
  /-- csr[PENTOT] (R49). -/
  pentot : Word
  /-- csr[MADDR].ROW (R50). -/
  row : Byte
  /-- csr[MADDR].COL (R50). -/
  col : Byte
  /-- csr[SCORE0] … csr[SCORE7] (R53). -/
  scores : Vector Word 8
  deriving DecidableEq, Repr

/-- The reset column of 10_state.md R34: every CSR with storage resets to 0. -/
def Csrs.reset : Csrs where
  doneIe := false
  errIe := false
  done := false
  err := false
  errcode := 0
  version := 0
  b1 := 0
  k1 := 0
  b2 := 0
  k2 := 0
  nec := 0
  src := 0
  dst := 0
  len := 0
  result := 0
  dmcount := 0
  pen1 := 0
  pen2 := 0
  pen3 := 0
  pen4 := 0
  pentot := 0
  row := 0
  col := 0
  scores := #v[0, 0, 0, 0, 0, 0, 0, 0]

/-- The buffers SB and CW (10_state.md R54, R55), keyed by block address (20_memory.md R81).
`cells` lists the bytes written since the last power-on reset; a byte it does not list holds the free
value `Config.powerOnByte epoch a`. `epoch` is the model's own count of power-on resets (log entry 3). -/
structure Memory where
  cells : List Host.Cell
  epoch : Nat
  deriving DecidableEq, Repr

/-- The matrix plane M (10_state.md R56), row by row from row 0, each row from column 0; `true` is a dark
module. Only the N × N square of the last MXINIT is represented, as R56 allows; no rows at all stand for contents the
spec leaves unspecified and unobservable (log entry 5). -/
abbrev Plane := List (List Bool)

/-- What a launch copies into the snapshot (40_control.md R141): "every CSR, CW[0..8191], SB[0..255], M,
MXVALID, MXVER". -/
structure Store where
  csr : Csrs
  mem : Memory
  plane : Plane
  /-- MXVALID of the matrix latch (10_state.md R58). -/
  mxvalid : Bool
  /-- MXVER of the matrix latch (10_state.md R58). -/
  mxver : BitVec 6
  deriving DecidableEq, Repr

/-- The engine state (10_state.md R59). -/
inductive Engine where
  | idle
  | busy (cmd : Word) (snap : Store)
  deriving DecidableEq, Repr

/-- A host access at a block address (20_memory.md R82): `MemRead(a, n)` or `MemWrite(a, n, v)`. The
width n is any number, so that an illegal width can be driven and refused. -/
inductive Access where
  | read (addr : Addr) (width : Nat)
  | write (addr : Addr) (width : Nat) (value : Word)
  deriving DecidableEq, Repr

/-- What can happen next (60_exceptions.md R294: host accesses, completions and resets, one at a time).
A launch is a host write to csr[CMD] and a soft reset a host write to csr[CTRL]. -/
inductive Event where
  /-- A host access (R82). -/
  | host (access : Access)
  /-- The engine's turn: the completion of the command in flight (40_control.md R144). -/
  | engine
  /-- The platform asserts power-on reset (70_reset_and_hazards.md R320). -/
  | powerOn
  deriving DecidableEq, Repr

/-- What the host receives for an access (20_memory.md R82, 60_exceptions.md R290). -/
inductive Answer where
  /-- The value of a read. -/
  | data (value : Word)
  /-- A write that completed. -/
  | written
  /-- The bus's error response. -/
  | error (fault : Fault)
  deriving DecidableEq, Repr

/-- The state of the machine. `agenda`, `answers`, `abandons` and `store.mem.epoch` are the model's own fields
(log entries 1 to 4); everything else is the spec's (10_state.md R30). -/
structure State where
  /-- CSRs, buffers, matrix plane and matrix latch. -/
  store : Store
  /-- The engine state (10_state.md R59). -/
  engine : Engine
  /-- The events still to come, the next one first (log entry 1). -/
  agenda : List Event
  /-- The bus responses so far, the newest first (log entry 2). -/
  answers : List Answer
  /-- How many commands soft resets have abandoned (log entry 4). -/
  abandons : Nat
  deriving DecidableEq, Repr

/-- The machine right after power-on reset (10_state.md R63, 70_reset_and_hazards.md R321). -/
def State.reset : State where
  store :=
    { csr := Csrs.reset
      mem := { cells := [], epoch := 0 }
      plane := []
      mxvalid := false
      mxver := 0 }
  engine := .idle
  agenda := []
  answers := []
  abandons := 0

end Sys2Proof.Machine
end

