-- ==== Sys2Proof/Machine/Flags.lean ====
section
/-!
DEFINITION. The flags of QRC (10_state.md R62: BUSY, DONE, ERR, ERRCODE and MXVALID, no condition codes): how
STATUS and CTRL read, what a write to STATUS clears, what launch and completion set, and the interrupt
line, which is a function of four flags (10_state.md R61).
-/

namespace Sys2Proof.Machine

/-- The numbers of 60_exceptions.md R291. -/
def ErrCode.code : ErrCode → BitVec 4
  | .badopc => 1
  | .badarg => 2
  | .range => 3
  | .layout => 4
  | .version => 5
  | .nomatrix => 6
  | .placeMismatch => 7

/-- One bit as a register value with the bit at position `i` and 0 elsewhere. -/
def bitAt (b : Bool) (i : Nat) : Word := BitVec.ofNat 32 (if b then 2 ^ i else 0)

/-- BUSY is 1 exactly while the engine state is BUSY (10_state.md R38, R59). -/
def Engine.isBusy : Engine → Bool
  | .idle => false
  | .busy _ _ => true

/-- What csr[STATUS] reads (10_state.md R34, R38): BUSY [0], DONE [1], ERR [2], ERRCODE [11:8],
MXVALID [16], MXVER [29:24], the rest 0. -/
def statusWord (s : State) : Word :=
  bitAt s.engine.isBusy 0 ||| bitAt s.store.csr.done 1 ||| bitAt s.store.csr.err 2
    ||| (s.store.csr.errcode.setWidth 32 <<< 8)
    ||| bitAt s.store.mxvalid 16 ||| (s.store.mxver.setWidth 32 <<< 24)

/-- What csr[CTRL] reads (10_state.md R34, R37): DONE_IE [0], ERR_IE [1], SRST reads 0. -/
def ctrlWord (c : Csrs) : Word := bitAt c.doneIe 0 ||| bitAt c.errIe 1

/-- A write of `v` to csr[STATUS] (10_state.md R39): bit 1 clears DONE, bit 2 clears ERR and ERRCODE together. -/
def Csrs.writeStatus (c : Csrs) (v : Word) : Csrs :=
  { c with
    done := c.done && !v.getLsbD 1
    err := c.err && !v.getLsbD 2
    errcode := if v.getLsbD 2 then 0 else c.errcode }

/-- A write of `v` to csr[CTRL] with bit 31 clear (10_state.md R36, R37). -/
def Csrs.writeEnables (c : Csrs) (v : Word) : Csrs :=
  { c with doneIe := v.getLsbD 0, errIe := v.getLsbD 1 }

/-- What a launch does to the flags (40_control.md R141): DONE, ERR and ERRCODE become 0. -/
def Csrs.clearFlags (c : Csrs) : Csrs := { c with done := false, err := false, errcode := 0 }

/-- What a successful completion does to the flags (40_control.md R143): DONE becomes 1; ERR and ERRCODE stay. -/
def Csrs.setDone (c : Csrs) : Csrs := { c with done := true }

/-- What a failed completion does to the flags (60_exceptions.md R292). -/
def Csrs.setError (c : Csrs) (e : ErrCode) : Csrs :=
  { c with done := true, err := true, errcode := e.code }

/-- The interrupt output (10_state.md R61): level-sensitive, active-high, no state of its own. -/
def Csrs.irq (c : Csrs) : Bool := (c.done && c.doneIe) || (c.err && c.errIe)

/-- The interrupt line of the machine (10_state.md R61). -/
def State.irq (s : State) : Bool := s.store.csr.irq

end Sys2Proof.Machine
end

