-- ==== Sys2Proof/Machine/Ops.lean ====
section
/-!
DEFINITION. The shared operations over memory, the matrix plane, the CSR map and the engine: reading and writing a
byte of a buffer, multi-byte values in little-endian order (20_memory.md R84, R85), a module of the
plane, which CSR stands at which offset (10_state.md R34), the writes of a command as plain data, and
launch and completion. `State.failCommand` is QRC's one way to take an error (60_exceptions.md R292); there is no
return from it (R298): the engine is IDLE at once and the next launch clears the flags.
-/

namespace Sys2Proof.Machine

/-! ### Buffers -/

/-- The block address of `SB[i]` (20_memory.md R81). -/
def sbAddr (i : Nat) : Nat := 0x1000 + i

/-- The block address of `CW[i]` (20_memory.md R81). -/
def cwAddr (i : Nat) : Nat := 0x2000 + i

/-- The block addresses that are buffer bytes: the SB and CW windows of 20_memory.md R81. -/
def isBufferAddr (a : Nat) : Bool :=
  (0x1000 ≤ a && a < 0x1000 + Config.sbSize) || (0x2000 ≤ a && a < 0x2000 + Config.cwSize)

/-- What an address that a cell list does not list reads as: no value at all. So no cell equals it, and the
reader of a byte supplies the free value of `Memory.byte` (log entry 3). -/
def unlisted : Option Byte := none

/-- The byte a cell list holds at an address. -/
def cellAt (a : Nat) : List Host.Cell → Option Byte
  | [] => unlisted
  | (k, b) :: rest => if k = a then some b else cellAt a rest

/-- Write a byte into a cell list, keeping the addresses rising. -/
def setCell (a : Nat) (b : Byte) : List Host.Cell → List Host.Cell
  | [] => [(a, b)]
  | (k, c) :: rest =>
    if a < k then (a, b) :: (k, c) :: rest
    else if a = k then (a, b) :: rest
    else (k, c) :: setCell a b rest

/-- The canonical form of the buffers: addresses strictly rising, every one a buffer byte. (No cell equals what an
unlisted address reads as, which is no value.) -/
abbrev Memory.wf (m : Memory) : Prop :=
  m.cells.Pairwise (fun x y => x.1 < y.1) ∧ ∀ c ∈ m.cells, isBufferAddr c.1 = true

/-- The byte at a block address: the one last written, or the free power-on value (10_state.md R63). -/
def Memory.byte (m : Memory) (a : Nat) : Byte :=
  match cellAt a m.cells with
  | some b => b
  | none => Config.powerOnByte m.epoch a

/-- Write one byte at a block address. -/
def Memory.setByte (m : Memory) (a : Nat) (b : Byte) : Memory :=
  { m with cells := setCell a b m.cells }

/-- Write the bytes of a list of (address, byte) pairs, in order. -/
def Memory.setBytes (m : Memory) (l : List (Nat × Byte)) : Memory :=
  l.foldl (fun m p => m.setByte p.1 p.2) m

/-- `MemRead(a, n)` of buffer bytes: Σ B[a + j] · 2^(8j) (20_memory.md R84). -/
def Memory.readLe (m : Memory) (a n : Nat) : Word :=
  BitVec.ofNat 32 (((List.range n).map fun j => (m.byte (a + j)).toNat * 2 ^ (8 * j)).sum)

/-- The bytes `MemWrite(a, n, v)` stores: B[a + j] gets v[8j+7 : 8j] (20_memory.md R85). -/
def leBytes (a n : Nat) (v : Word) : List (Nat × Byte) :=
  (List.range n).map fun j => (a + j, v.extractLsb' (8 * j) 8)

/-- `MemWrite(a, n, v)` to buffer bytes (20_memory.md R85). -/
def Memory.writeLe (m : Memory) (a n : Nat) (v : Word) : Memory := m.setBytes (leBytes a n v)

/-- `CW[i]` (10_state.md R54). -/
def Store.cw (st : Store) (i : Nat) : Byte := st.mem.byte (cwAddr i)

/-- `SB[i]` (10_state.md R55). -/
def Store.sb (st : Store) (i : Nat) : Byte := st.mem.byte (sbAddr i)

/-- The bytes `CW[i], …, CW[i + n − 1]`. -/
def Store.cwList (st : Store) (i n : Nat) : List Byte := (List.range n).map fun j => st.cw (i + j)

/-! ### The matrix plane -/

/-- `M[r][c]`. A module the plane does not represent is light; only states no run reaches
read one (log entry 5). -/
def Plane.module (p : Plane) (r c : Nat) : Bool := (p.getD r []).getD c false

/-- `M[r][c] <- b`, nothing else changed. -/
def Plane.setModule (p : Plane) (r c : Nat) (b : Bool) : Plane := p.modify r fun row => row.set c b

/-- Write the modules of a list of (row, column, value), in order. -/
def Plane.setModules (p : Plane) (l : List (Nat × Nat × Bool)) : Plane :=
  l.foldl (fun p m => p.setModule m.1 m.2.1 m.2.2) p

/-- The n × n square whose module at row r, column c is `f r c`. -/
def square (n : Nat) (f : Nat → Nat → Bool) : Plane :=
  (List.range n).map fun r => (List.range n).map fun c => f r c

/-- The plane has n rows of n modules. -/
abbrev Plane.isSquare (p : Plane) (n : Nat) : Prop := p.length = n ∧ ∀ row ∈ p, row.length = n

/-- `N(V) = 17 + 4·V` (43_matrix.md R210). -/
abbrev sideLength (v : Nat) : Nat := 17 + 4 * v

/-! ### The CSR map -/

/-- The CSR at an offset of the CSR window; `none` at an unassigned offset (10_state.md R34). -/
def csrAt (offset : Nat) : Option Csr :=
  match offset with
  | 0x00 => some .id
  | 0x04 => some .ctrl
  | 0x08 => some .status
  | 0x0C => some .cmd
  | 0x10 => some .version
  | 0x14 => some .layout0
  | 0x18 => some .layout1
  | 0x1C => some .arg0
  | 0x20 => some .arg1
  | 0x24 => some .arg2
  | 0x28 => some .result
  | 0x2C => some .dmcount
  | 0x30 => some .pen1
  | 0x34 => some .pen2
  | 0x38 => some .pen3
  | 0x3C => some .pen4
  | 0x40 => some .pentot
  | 0x44 => some .maddr
  | 0x48 => some .mdata
  | 0x50 => some (.score 0)
  | 0x54 => some (.score 1)
  | 0x58 => some (.score 2)
  | 0x5C => some (.score 3)
  | 0x60 => some (.score 4)
  | 0x64 => some (.score 5)
  | 0x68 => some (.score 6)
  | 0x6C => some (.score 7)
  | _ => none

/-- `offset(NAME)` (10_state.md R34, 30_encoding.md R119). -/
def Csr.offset : Csr → Addr
  | .id => 0x00
  | .ctrl => 0x04
  | .status => 0x08
  | .cmd => 0x0C
  | .version => 0x10
  | .layout0 => 0x14
  | .layout1 => 0x18
  | .arg0 => 0x1C
  | .arg1 => 0x20
  | .arg2 => 0x24
  | .result => 0x28
  | .dmcount => 0x2C
  | .pen1 => 0x30
  | .pen2 => 0x34
  | .pen3 => 0x38
  | .pen4 => 0x3C
  | .pentot => 0x40
  | .maddr => 0x44
  | .mdata => 0x48
  | .score k => 0x50 + 4 * BitVec.ofNat 16 k.val

/-- Fill the operand fields of the plain read/write CSRs from a written value (10_state.md R33, R34: the reserved bits
of the value are ignored); any other CSR is left alone. -/
def Csrs.writeOperand (c : Csrs) (r : Csr) (v : Word) : Csrs :=
  match r with
  | .version => { c with version := v.setWidth 6 }
  | .layout0 =>
    { c with
      b1 := v.extractLsb' 0 8
      k1 := v.extractLsb' 8 8
      b2 := v.extractLsb' 16 8
      k2 := v.extractLsb' 24 8 }
  | .layout1 => { c with nec := v.setWidth 8 }
  | .arg0 => { c with src := v.setWidth 13 }
  | .arg1 => { c with dst := v.setWidth 13 }
  | .arg2 => { c with len := v.setWidth 14 }
  | .maddr => { c with col := v.extractLsb' 0 8, row := v.extractLsb' 8 8 }
  | _ => c

/-! ### What a command returns and what its completion does -/

/-- The four penalty scores of a matrix (44_mask.md R255–R258). -/
structure Penalty where
  rule1 : Nat
  rule2 : Nat
  rule3 : Nat
  rule4 : Nat
  deriving DecidableEq, Repr

/-- The total (44_mask.md R259). -/
def Penalty.total (p : Penalty) : Nat := p.rule1 + p.rule2 + p.rule3 + p.rule4

/-- The set of writes a successful command returns (40_control.md R142), as plain data. -/
structure Writes where
  /-- csr[RESULT]. -/
  result : Option Word := none
  /-- `CW[i] <- b` for each (i, b). -/
  cw : List (Nat × Byte) := []
  /-- `SB[i] <- b` for each (i, b). -/
  sb : List (Nat × Byte) := []
  /-- `M[r][c] <- X[r][c]` for the whole N × N square. -/
  whole : Option Plane := none
  /-- `M[r][c] <- b` for each (r, c, b). -/
  modules : List (Nat × Nat × Bool) := []
  /-- MXVALID ← 1 and MXVER ← V. -/
  latch : Option (BitVec 6) := none
  /-- csr[DMCOUNT]. -/
  dmcount : Option (BitVec 15) := none
  /-- csr[PEN1] … csr[PEN4] and csr[PENTOT]. -/
  penalty : Option Penalty := none
  /-- csr[SCORE0] … csr[SCORE7]. -/
  scores : Option (Vector Word 8) := none
  deriving DecidableEq, Repr

/-- What `run` returns: `Ok(writes)` or `Err(code)` (40_control.md R142). -/
inductive CmdResult where
  | ok (writes : Writes)
  | err (code : ErrCode)
  deriving DecidableEq, Repr

/-- The CSRs after a command's writes. -/
def Csrs.apply (c : Csrs) (w : Writes) : Csrs :=
  { c with
    result := w.result.getD c.result
    dmcount := w.dmcount.getD c.dmcount
    pen1 := (w.penalty.map fun p => BitVec.ofNat 32 p.rule1).getD c.pen1
    pen2 := (w.penalty.map fun p => BitVec.ofNat 32 p.rule2).getD c.pen2
    pen3 := (w.penalty.map fun p => BitVec.ofNat 32 p.rule3).getD c.pen3
    pen4 := (w.penalty.map fun p => BitVec.ofNat 32 p.rule4).getD c.pen4
    pentot := (w.penalty.map fun p => BitVec.ofNat 32 p.total).getD c.pentot
    scores := w.scores.getD c.scores }

/-- The buffer bytes a command's writes name, by block address. -/
def Writes.bytes (w : Writes) : List (Nat × Byte) :=
  (w.cw.map fun p => (cwAddr p.1, p.2)) ++ w.sb.map fun p => (sbAddr p.1, p.2)

/-- Every write takes effect (40_control.md R143); what no write names is unchanged (20_memory.md R92). -/
def Store.apply (st : Store) (w : Writes) : Store where
  csr := st.csr.apply w
  mem := st.mem.setBytes w.bytes
  plane := (w.whole.getD st.plane).setModules w.modules
  mxvalid := st.mxvalid || w.latch.isSome
  mxver := w.latch.getD st.mxver

/-- What the command in flight reads (40_control.md R141, R142): the launch snapshot. When the engine
is IDLE no command is in flight and this is the store itself (log entry 6). -/
def State.snap (s : State) : Store :=
  match s.engine with
  | .idle => s.store
  | .busy _ snap => snap

/-- Launch of the word `w` (40_control.md R141): the flags are cleared, then the snapshot is taken. -/
def State.launch (s : State) (w : Word) : State :=
  let st := { s.store with csr := s.store.csr.clearFlags }
  { s with store := st, engine := .busy w st }

/-- Successful completion (40_control.md R143). -/
def State.succeed (s : State) (w : Writes) : State :=
  let st := s.store.apply w
  { s with store := { st with csr := st.csr.setDone }, engine := .idle }

/-- Failed completion, the one way a command takes an error (60_exceptions.md R292). -/
def State.failCommand (s : State) (e : ErrCode) : State :=
  { s with store := { s.store with csr := s.store.csr.setError e }, engine := .idle }

/-- The completion of a command that returned `r` (40_control.md R143, 60_exceptions.md R292). -/
def State.finish (s : State) (r : CmdResult) : State :=
  match r with
  | .ok w => s.succeed w
  | .err e => s.failCommand e

/-- A completion as the outcome of a step: it is always a next state. -/
def State.complete (s : State) (r : CmdResult) : Host.Outcome State Fault Refusal :=
  .next (s.finish r)

end Sys2Proof.Machine
end

