-- ==== Sys2Proof/Machine/Operands.lean ====
section
/-!
DEFINITION. The operands of the commands: the A and B fields as integers (30_encoding.md R111) and the
implicit operands read from the launch snapshot (R112).
-/

namespace Sys2Proof.Machine

/-- An operand field as an integer 0–255 (30_encoding.md R111: zero-extended, never scaled or shifted). -/
abbrev fieldValue (b : Byte) : Nat := b.toNat

/-- csr[VERSION].V (10_state.md R41). -/
abbrev Store.versionArg (st : Store) : Nat := st.csr.version.toNat

/-- csr[ARG0].SRC (10_state.md R44). -/
abbrev Store.srcArg (st : Store) : Nat := st.csr.src.toNat

/-- csr[ARG1].DST (10_state.md R45). -/
abbrev Store.dstArg (st : Store) : Nat := st.csr.dst.toNat

/-- csr[ARG2].LEN (10_state.md R46). -/
abbrev Store.lenArg (st : Store) : Nat := st.csr.len.toNat

/-- The version of the current matrix, MXVER (10_state.md R58). -/
abbrev Store.matrixVersion (st : Store) : Nat := st.mxver.toNat

/-- The block-group layout of 42_reed_solomon.md R187. -/
structure Layout where
  b1 : Nat
  k1 : Nat
  b2 : Nat
  k2 : Nat
  n : Nat
  deriving DecidableEq, Repr

/-- csr[LAYOUT0] and csr[LAYOUT1] (10_state.md R42, R43). -/
def Store.layoutArg (st : Store) : Layout where
  b1 := st.csr.b1.toNat
  k1 := st.csr.k1.toNat
  b2 := st.csr.b2.toNat
  k2 := st.csr.k2.toNat
  n := st.csr.nec.toNat

/-- The value of a register that a rule gives as an integer. -/
def toWord (n : Nat) : Word := BitVec.ofNat 32 n

/-- A byte result in bits [7:0] of a register, the rest 0 (`zext_32`, 00_scope.md R6). -/
def byteWord (b : Byte) : Word := b.setWidth 32

end Sys2Proof.Machine
end

