-- ==== Sys2Proof/Machine/Control.lean ====
section
/-!
DEFINITION. NOP (40_control.md R147).
-/

namespace Sys2Proof.Machine

/-- `run` of NOP: `Ok({})` (40_control.md R147). -/
def runNop : CmdResult := .ok {}

/-- NOP (40_control.md R147): completes and writes nothing. -/
def execNop (s : State) : Host.Outcome State Fault Refusal := s.complete runNop

end Sys2Proof.Machine
end

