-- ==== Sys2Proof/Machine/Matrix.lean ====
section
/-!
DEFINITION. The matrix builder and data placement (43_matrix.md). A step of the construction is a partial function on
modules: `some b` where the step gives the module the value b, `none` where the step writes nothing. The
construction's result is then, for each module, what the last step that writes it gives (R211).
-/

namespace Sys2Proof.Machine

/-- `|a - b|` (00_scope.md R6). -/
def absDiff (a b : Nat) : Nat := if a ≤ b then b - a else a - b

/-- Ring index of a module around a centre: the larger of the two coordinate distances (43_matrix.md R213, R216). -/
def ringIndex (r c cr cc : Nat) : Nat := max (absDiff r cr) (absDiff c cc)

/-! ### Steps 2 to 7 -/

/-- The top-left modules of the three finder patterns (43_matrix.md R213). -/
def finderCorners (v : Nat) : List (Nat × Nat) := [(0, 0), (0, sideLength v - 7), (sideLength v - 7, 0)]

/-- Step 2: inside a finder's 7 × 7 square, light on ring 2 and dark elsewhere (43_matrix.md R213). -/
def finderStep (v r c : Nat) : Option Bool :=
  ((finderCorners v).find? fun k => k.1 ≤ r && r ≤ k.1 + 6 && k.2 ≤ c && c ≤ k.2 + 6).map fun k =>
    ringIndex r c (k.1 + 3) (k.2 + 3) ≠ 2

/-- The three 8 × 8 corner squares (43_matrix.md R214). -/
def inCornerSquare (v r c : Nat) : Bool :=
  (r ≤ 7 && c ≤ 7) || (r ≤ 7 && c ≥ sideLength v - 8) || (r ≥ sideLength v - 8 && c ≤ 7)

/-- Step 3: the modules of the corner squares that step 2 did not write become light (43_matrix.md R214). -/
def separatorStep (v r c : Nat) : Option Bool :=
  if inCornerSquare v r c && (finderStep v r c).isNone then some false else none

/-- ALIGN_TABLE, the centre coordinates P(V) for V = 1 … 40 in order (43_matrix.md R215). -/
def alignTable : List (List Nat) :=
  [[], [6, 18], [6, 22], [6, 26]] ++
  [[6, 30], [6, 34], [6, 22, 38], [6, 24, 42]] ++
  [[6, 26, 46], [6, 28, 50], [6, 30, 54], [6, 32, 58]] ++
  [[6, 34, 62], [6, 26, 46, 66], [6, 26, 48, 70], [6, 26, 50, 74]] ++
  [[6, 30, 54, 78], [6, 30, 56, 82], [6, 30, 58, 86], [6, 34, 62, 90]] ++
  [[6, 28, 50, 72, 94], [6, 26, 50, 74, 98], [6, 30, 54, 78, 102], [6, 28, 54, 80, 106]] ++
  [[6, 32, 58, 84, 110], [6, 30, 58, 86, 114], [6, 34, 62, 90, 118], [6, 26, 50, 74, 98, 122]] ++
  [[6, 30, 54, 78, 102, 126], [6, 26, 52, 78, 104, 130], [6, 30, 56, 82, 108, 134], [6, 34, 60, 86, 112, 138]] ++
  [[6, 30, 58, 86, 114, 142], [6, 34, 62, 90, 118, 146], [6, 30, 54, 78, 102, 126, 150], [6, 24, 50, 76, 102, 128, 154]] ++
  [[6, 28, 54, 80, 106, 132, 158], [6, 32, 58, 84, 110, 136, 162], [6, 26, 54, 82, 110, 138, 166], [6, 30, 58, 86, 114, 142, 170]]

/-- `P(V)` (43_matrix.md R215). -/
def alignCoords (v : Nat) : List Nat := alignTable.getD (v - 1) []

/-- The centres of the alignment patterns: all pairs of coordinates but the three on a finder pattern
(43_matrix.md R216). -/
def alignCentres (v : Nat) : List (Nat × Nat) :=
  let p := alignCoords v
  let last := p.foldl max 0
  (p.flatMap fun ar => p.map fun ac => (ar, ac)).filter fun k =>
    k ≠ (6, 6) && k ≠ (6, last) && k ≠ (last, 6)

/-- The alignment pattern a module lies in, by its centre (43_matrix.md R216, R221). -/
def alignCentreOf (v r c : Nat) : Option (Nat × Nat) :=
  (alignCentres v).find? fun k => absDiff r k.1 ≤ 2 && absDiff c k.2 ≤ 2

/-- Step 4: light on ring 1, dark elsewhere in the 5 × 5 square (43_matrix.md R216). -/
def alignmentStep (v r c : Nat) : Option Bool :=
  (alignCentreOf v r c).map fun k => ringIndex r c k.1 k.2 ≠ 1

/-- What steps 2 to 4 give a module: alignment patterns come after separators, separators after finders
(43_matrix.md R211). -/
def patternSteps (v r c : Nat) : Option Bool :=
  (alignmentStep v r c).or ((separatorStep v r c).or (finderStep v r c))

/-- Step 5: on row 6 and column 6 from 8 to N − 9, where steps 2 to 4 wrote nothing, dark at even indices
(43_matrix.md R217). -/
def timingStep (v r c : Nat) : Option Bool :=
  if (patternSteps v r c).isSome then none
  else if r = 6 ∧ 8 ≤ c ∧ c + 9 ≤ sideLength v then some (c % 2 = 0)
  else if c = 6 ∧ 8 ≤ r ∧ r + 9 ≤ sideLength v then some (r % 2 = 0)
  else none

/-- Step 6: the dark module at row 4V + 9, column 8 (43_matrix.md R218). -/
def darkStep (v r c : Nat) : Option Bool := if r = 4 * v + 9 ∧ c = 8 then some true else none

/-- The 30 format-information modules (43_matrix.md R219). -/
def isFormatModule (v r c : Nat) : Bool :=
  (r = 8 && (c ≤ 5 || c = 7 || c = 8)) || (c = 8 && (r ≤ 5 || r = 7)) ||
    (r = 8 && sideLength v - 8 ≤ c && c < sideLength v) || (c = 8 && sideLength v - 7 ≤ r && r < sideLength v)

/-- The two version-information blocks, for V ≥ 7 only (43_matrix.md R220). -/
def isVersionModule (v r c : Nat) : Bool :=
  v ≥ 7 && ((r ≤ 5 && sideLength v - 11 ≤ c && c ≤ sideLength v - 9) ||
    (c ≤ 5 && sideLength v - 11 ≤ r && r ≤ sideLength v - 9))

/-- Step 7: reserved modules become 0 (43_matrix.md R219, R220). -/
def reserveStep (v r c : Nat) : Option Bool :=
  if isFormatModule v r c || isVersionModule v r c then some false else none

/-- What steps 2 to 7 give a module, the last step that writes it deciding (43_matrix.md R211); `none` if none does.
-/
def functionSteps (v r c : Nat) : Option Bool :=
  (reserveStep v r c).or ((darkStep v r c).or ((timingStep v r c).or (patternSteps v r c)))

/-- The module MXINIT builds: step 1 makes every module light (43_matrix.md R212). -/
def initModule (v r c : Nat) : Bool := (functionSteps v r c).getD false

/-! ### Function and data modules -/

/-- The function-module predicate, clause by clause (43_matrix.md R221). -/
def isFunc (v r c : Nat) : Bool :=
  let n := sideLength v
  (r ≤ 7 && c ≤ 7) || (r ≤ 7 && c ≥ n - 8) || (r ≥ n - 8 && c ≤ 7)
    || r = 6 || c = 6
    || (r = 4 * v + 9 && c = 8)
    || (r = 8 && (c ≤ 8 || c ≥ n - 8)) || (c = 8 && (r ≤ 8 || r ≥ n - 8))
    || (v ≥ 7 && ((r ≤ 5 && n - 11 ≤ c && c ≤ n - 9) || (c ≤ 5 && n - 11 ≤ r && r ≤ n - 9)))
    || (alignCentres v).any fun k => absDiff r k.1 ≤ 2 && absDiff c k.2 ≤ 2

/-- `DM(V)`: the number of modules (r, c) with isFunc false (43_matrix.md R222). -/
def dataModules (v : Nat) : Nat :=
  ((List.range (sideLength v)).map fun r =>
    (List.range (sideLength v)).countP fun c => !isFunc v r c).sum

/-! ### Placement -/

/-- The right columns of the zig-zag's column pairs, from `right` leftwards, shifted by one at the timing column
(43_matrix.md R223: `while right >= 1`). `fuel` bounds the number of pairs. -/
def pairColumns : (fuel : Nat) → (right : Nat) → List Nat
  | 0, _ => []
  | fuel + 1, right =>
    if right ≥ 1 then
      let right := if right = 6 then 5 else right
      right :: pairColumns fuel (right - 2)
    else []

/-- The modules of one column pair in placement order, data modules only: even pairs go upward, and the right
column comes first (43_matrix.md R223). -/
def pairModules (v right p : Nat) : List (Nat × Nat) :=
  (List.range (sideLength v)).flatMap fun k =>
    let r := if p % 2 = 0 then sideLength v - 1 - k else k
    [(r, right), (r, right - 1)].filter fun m => !isFunc v m.1 m.2

/-- `zigzag(V)` (43_matrix.md R223). -/
def zigzag (v : Nat) : List (Nat × Nat) :=
  (pairColumns (sideLength v) (sideLength v - 1)).zipIdx.flatMap fun q => pairModules v q.1 q.2

/-- The bits of a codeword, most significant first (20_memory.md R88). -/
def codewordBits (b : Byte) : List Bool := (List.range 8).map fun i => b.getLsbD (7 - i)

/-- The bit stream of a list of codewords (43_matrix.md R224). -/
def bitStream (l : List Byte) : List Bool := l.flatMap codewordBits

/-- The module writes of MXPLACE: the bits in zig-zag order, then 0 in the modules left over (43_matrix.md R225). -/
def placements (v : Nat) (codewords : List Byte) : List (Nat × Nat × Bool) :=
  let bits := bitStream codewords
  (zigzag v).mapIdx fun t m => (m.1, m.2, bits.getD t false)

/-! ### The commands -/

/-- `run` of MXINIT (43_matrix.md R211). -/
def runMxinit (snap : Store) : CmdResult :=
  let v := snap.versionArg
  if v < 1 ∨ v > 40 then .err .version
  else .ok
    { whole := some (square (sideLength v) (initModule v))
      latch := some (BitVec.ofNat 6 v)
      dmcount := some (BitVec.ofNat 15 (dataModules v))
      result := some (toWord (dataModules v)) }

/-- `run` of MXPLACE (43_matrix.md R225). -/
def runMxplace (snap : Store) : CmdResult :=
  let src := snap.srcArg
  let t := snap.lenArg
  let v := snap.matrixVersion
  if snap.mxvalid = false then .err .nomatrix
  else if src + t > Config.cwSize then .err .range
  else if 8 * t > dataModules v ∨ dataModules v - 8 * t > 7 then .err .placeMismatch
  else .ok
    { modules := placements v (snap.cwList src t)
      result := some (toWord (dataModules v - 8 * t)) }

/-- MXINIT (43_matrix.md R211). -/
def execMxinit (s : State) : Host.Outcome State Fault Refusal := s.complete (runMxinit s.snap)

/-- MXPLACE (43_matrix.md R225). -/
def execMxplace (s : State) : Host.Outcome State Fault Refusal := s.complete (runMxplace s.snap)

end Sys2Proof.Machine
end

