-- ==== Sys2Proof/Machine/Mask.lean ====
section
/-!
DEFINITION. Masking, the four penalty rules, scoring and selection (44_mask.md). `i` is a module's row and
`j` its column (R250).
-/

namespace Sys2Proof.Machine

/-! ### Masks -/

/-- `mask_k(i, j)` for k = 0 … 7; false for any other k (44_mask.md R251, R252). -/
def maskBit (k i j : Nat) : Bool :=
  match k with
  | 0 => (i + j) % 2 = 0
  | 1 => i % 2 = 0
  | 2 => j % 3 = 0
  | 3 => (i + j) % 3 = 0
  | 4 => (i / 2 + j / 3) % 2 = 0
  | 5 => (i * j) % 2 + (i * j) % 3 = 0
  | 6 => ((i * j) % 2 + (i * j) % 3) % 2 = 0
  | 7 => ((i + j) % 2 + (i * j) % 3) % 2 = 0
  | _ => false

/-- Module (r, c) of `masked(k)`: only a data module where the mask is true is inverted (44_mask.md R252). -/
def maskedModule (v : Nat) (m : Plane) (k r c : Nat) : Bool :=
  m.module r c ^^ (!isFunc v r c && maskBit k r c)

/-- `masked(k)` of the matrix of version v in plane m; k = 8 leaves it unmasked (44_mask.md R252). -/
def masked (v : Nat) (m : Plane) (k : Nat) : Plane := square (sideLength v) (maskedModule v m k)

/-! ### Penalty rules -/

/-- The columns of an n × n matrix. -/
def columnsOf (n : Nat) (x : Plane) : Plane := (List.range n).map fun c => x.map fun row => row.getD c false

/-- The 2·N lines of a matrix: its rows and its columns (44_mask.md R254). -/
def linesOf (n : Nat) (x : Plane) : List (List Bool) := x ++ columnsOf n x

/-- The lengths of the maximal runs of a line that continues a run of `len` modules equal to `b`
(44_mask.md R255). -/
def runsFrom (b : Bool) (len : Nat) : List Bool → List Nat
  | [] => [len]
  | c :: rest => if c = b then runsFrom b (len + 1) rest else len :: runsFrom c 1 rest

/-- The lengths of the maximal runs of a line, in order (44_mask.md R255). -/
def runLengths : List Bool → List Nat
  | [] => []
  | b :: rest => runsFrom b 1 rest

/-- What a run adds: L − 2 for L ≥ 5 (44_mask.md R255). -/
def runPenalty (len : Nat) : Nat := if len ≥ 5 then len - 2 else 0

/-- Penalty rule 1 (44_mask.md R255). -/
def pen1 (n : Nat) (x : Plane) : Nat :=
  ((linesOf n x).map fun s => ((runLengths s).map runPenalty).sum).sum

/-- The 2 × 2 window with top-left module (r, c) is uniform (44_mask.md R256). -/
def uniformBlock (x : Plane) (r c : Nat) : Bool :=
  x.module r c = x.module r (c + 1) && x.module r c = x.module (r + 1) c &&
    x.module r c = x.module (r + 1) (c + 1)

/-- Penalty rule 2: 3 for each uniform window with 0 ≤ r, c ≤ N − 2 (44_mask.md R256). -/
def pen2 (n : Nat) (x : Plane) : Nat :=
  3 * ((List.range (n - 1)).map fun r => (List.range (n - 1)).countP fun c => uniformBlock x r c).sum

/-- `P_A = 1 0 1 1 1 0 1 0 0 0 0` (44_mask.md R257). -/
def finderLikeA : List Bool :=
  [true, false, true, true, true, false, true, false, false, false, false]

/-- `P_B = 0 0 0 0 1 0 1 1 1 0 1` (44_mask.md R257). -/
def finderLikeB : List Bool :=
  [false, false, false, false, true, false, true, true, true, false, true]

/-- The 11 modules of a line from position i equal P_A or P_B (44_mask.md R257). -/
def finderLikeAt (s : List Bool) (i : Nat) : Bool :=
  (s.drop i).take 11 = finderLikeA || (s.drop i).take 11 = finderLikeB

/-- Penalty rule 3: 40 for each start position i in 0 … N − 11 of a finder-like window (44_mask.md R257,
PEN3_POLICY). -/
def pen3 (n : Nat) (x : Plane) : Nat :=
  40 * ((linesOf n x).map fun s => (List.range (n - 10)).countP fun i => finderLikeAt s i).sum

/-- The number of dark modules of a matrix (44_mask.md R258). -/
def darkCount (x : Plane) : Nat := (x.map fun row => row.count true).sum

/-- Penalty rule 4 from the number of dark modules: 10 for each whole 5 % step of deviation from 50 %
(44_mask.md R258, PEN4_POLICY). -/
def darkPenalty (n dark : Nat) : Nat := 10 * (absDiff (20 * dark) (10 * (n * n)) / (n * n))

/-- Penalty rule 4 (44_mask.md R258). -/
def pen4 (n : Nat) (x : Plane) : Nat := darkPenalty n (darkCount x)

/-- The four scores of an n × n matrix (44_mask.md R255–R259). -/
def penaltyOf (n : Nat) (x : Plane) : Penalty where
  rule1 := pen1 n x
  rule2 := pen2 n x
  rule3 := pen3 n x
  rule4 := pen4 n x

/-! ### Selection -/

/-- A candidate of the selection: its mask index and its scores. -/
structure Candidate where
  index : Nat
  penalty : Penalty
  deriving DecidableEq, Repr

/-- Mask k of the current matrix as a candidate (44_mask.md R261). -/
def candidate (v : Nat) (m : Plane) (k : Nat) : Candidate := ⟨k, penaltyOf (sideLength v) (masked v m k)⟩

/-- Keep the better of two candidates: only a strictly smaller total replaces the best so far (44_mask.md R261). -/
def betterOf (best k : Candidate) : Candidate :=
  if k.penalty.total < best.penalty.total then k else best

/-- The best of a list of candidates in ascending index order (44_mask.md R261, R262). -/
def bestOf (first : Candidate) (rest : List Candidate) : Candidate := rest.foldl betterOf first

/-! ### The commands -/

/-- `run` of MXMASK (44_mask.md R253). -/
def runMxmask (k : Byte) (snap : Store) : CmdResult :=
  let k := fieldValue k
  if k > 7 then .err .badarg
  else if snap.mxvalid = false then .err .nomatrix
  else .ok { whole := some (masked snap.matrixVersion snap.plane k), result := some (toWord k) }

/-- `run` of MXSCORE (44_mask.md R260). -/
def runMxscore (k : Byte) (snap : Store) : CmdResult :=
  let k := fieldValue k
  let v := snap.matrixVersion
  if k > 8 then .err .badarg
  else if snap.mxvalid = false then .err .nomatrix
  else
    let p := penaltyOf (sideLength v) (masked v snap.plane k)
    .ok { penalty := some p, result := some (toWord p.total) }

/-- `run` of MXSELECT (44_mask.md R261). -/
def runMxselect (snap : Store) : CmdResult :=
  let v := snap.matrixVersion
  let m := snap.plane
  if snap.mxvalid = false then .err .nomatrix
  else
    let best := bestOf (candidate v m 0) ([1, 2, 3, 4, 5, 6, 7].map (candidate v m))
    .ok
      { whole := some (masked v m best.index)
        scores := some (Vector.ofFn fun k => toWord (candidate v m k.val).penalty.total)
        penalty := some best.penalty
        result := some (toWord best.index) }

/-- MXMASK k (44_mask.md R253). -/
def execMxmask (k : Byte) (s : State) : Host.Outcome State Fault Refusal :=
  s.complete (runMxmask k s.snap)

/-- MXSCORE k (44_mask.md R260). -/
def execMxscore (k : Byte) (s : State) : Host.Outcome State Fault Refusal :=
  s.complete (runMxscore k s.snap)

/-- MXSELECT (44_mask.md R261). -/
def execMxselect (s : State) : Host.Outcome State Fault Refusal := s.complete (runMxselect s.snap)

end Sys2Proof.Machine
end

