-- ==== Sys2Proof/Machine/Rs.lean ====
section
/-!
DEFINITION. The Reed–Solomon coder: generator, remainder and syndromes (42_reed_solomon.md R180–R186) and the whole
block split, encode and interleave (R187–R190). A list of bytes is a polynomial, the highest power first (R180).
-/

namespace Sys2Proof.Machine

/-! ### Polynomials -/

/-- One round of `gen` (42_reed_solomon.md R181): multiply g by (x + e). In the list `g ++ [0]`, entry
j + 1 gets `g[j] ⊗ e` added. -/
def mulRoot (g : List Byte) (e : Byte) : List Byte :=
  List.zipWith (· ^^^ ·) (g ++ [0]) (0 :: g.map fun c => gfmul c e)

/-- The generator polynomial of degree n (42_reed_solomon.md R181). -/
def genPoly (n : Nat) : List Byte := (List.range n).foldl (fun g i => mulRoot g (gfExp i)) [1]

/-- One round of `rsRem` (42_reed_solomon.md R183): shift one data codeword in. `g` is the generator and
the remainder has one entry fewer than it. -/
def remStep (g rem : List Byte) (d : Byte) : List Byte :=
  let f := d ^^^ rem.headD 0
  List.zipWith (· ^^^ ·) (rem.tail ++ [0]) (g.tail.map fun c => gfmul c f)

/-- The n EC codewords of a block of data codewords (42_reed_solomon.md R183). -/
def rsRem (data : List Byte) (n : Nat) : List Byte :=
  data.foldl (remStep (genPoly n)) (List.replicate n 0)

/-- The value of the polynomial `r` at `x`, by Horner's rule (42_reed_solomon.md R185, inner loop). -/
def polyEval (r : List Byte) (x : Byte) : Byte := r.foldl (fun s c => gfmul s x ^^^ c) 0

/-- The n syndromes of a received word (42_reed_solomon.md R185). -/
def syndromes (r : List Byte) (n : Nat) : List Byte :=
  (List.range n).map fun i => polyEval r (gfExp (i % 255))

/-- A list of bytes written to consecutive buffer bytes from index `i`. -/
def placeAt (i : Nat) (l : List Byte) : List (Nat × Byte) := l.mapIdx fun j b => (i + j, b)

/-! ### One block -/

/-- `run` of RSGEN (42_reed_solomon.md R182). -/
def runRsgen (n : Byte) : CmdResult :=
  let n := fieldValue n
  if n = 0 then .err .badarg
  else .ok { sb := placeAt 0 (genPoly n), result := some (toWord (n + 1)) }

/-- `run` of RSENC (42_reed_solomon.md R184). -/
def runRsenc (n k : Byte) (snap : Store) : CmdResult :=
  let n := fieldValue n
  let k := fieldValue k
  let src := snap.srcArg
  let dst := snap.dstArg
  if n = 0 ∨ k = 0 ∨ n + k > Config.rsMaxLen then .err .badarg
  else if src + k > Config.cwSize ∨ dst + n > Config.cwSize then .err .range
  else .ok { cw := placeAt dst (rsRem (snap.cwList src k) n), result := some (toWord n) }

/-- `run` of RSSYN (42_reed_solomon.md R186). -/
def runRssyn (n l : Byte) (snap : Store) : CmdResult :=
  let n := fieldValue n
  let l := fieldValue l
  let src := snap.srcArg
  if n = 0 ∨ l = 0 then .err .badarg
  else if src + l > Config.cwSize then .err .range
  else
    let s := syndromes (snap.cwList src l) n
    .ok { sb := placeAt 0 s, result := some (toWord (s.countP (· ≠ 0))) }

/-! ### The whole operation -/

/-- The number of blocks B (42_reed_solomon.md R187). -/
def Layout.blocks (y : Layout) : Nat := y.b1 + y.b2

/-- D, the total of the data codewords (42_reed_solomon.md R187). -/
def Layout.dataTotal (y : Layout) : Nat := y.b1 * y.k1 + y.b2 * y.k2

/-- T, the total of all codewords (42_reed_solomon.md R187). -/
def Layout.total (y : Layout) : Nat := y.dataTotal + (y.b1 + y.b2) * y.n

/-- When a layout is legal (42_reed_solomon.md R187). -/
abbrev Layout.Legal (y : Layout) : Prop :=
  y.b1 ≥ 1 ∧ y.k1 ≥ 1 ∧ y.n ≥ 1 ∧ y.k1 + y.n ≤ Config.rsMaxLen ∧
    (y.b2 = 0 ∨ (y.k2 ≥ y.k1 ∧ y.k2 + y.n ≤ Config.rsMaxLen)) ∧
    y.dataTotal ≤ Config.outBase ∧ y.total ≤ Config.outBase

/-- `k_b` for every block b in order (42_reed_solomon.md R187). -/
def Layout.lengths (y : Layout) : List Nat := List.replicate y.b1 y.k1 ++ List.replicate y.b2 y.k2

/-- Consecutive runs of the given lengths (42_reed_solomon.md R188). -/
def splitBlocks : List Nat → List Byte → List (List Byte)
  | [], _ => []
  | k :: ks, data => data.take k :: splitBlocks ks (data.drop k)

/-- Entry j of every list that has one, in order: one column of the interleave (42_reed_solomon.md R189). -/
def column (lists : List (List Byte)) (j : Nat) : List Byte := lists.filterMap fun l => l[j]?

/-- The interleaved sequence (42_reed_solomon.md R189): the data codewords column by column, then
the EC codewords column by column. -/
def interleave (blocks ecs : List (List Byte)) (n : Nat) : List Byte :=
  ((List.range ((blocks.map List.length).foldl max 0)).flatMap (column blocks)) ++
    (List.range n).flatMap (column ecs)

/-- The final codeword sequence of the data codewords under a layout (42_reed_solomon.md R188–R190). -/
def encodeBlocks (y : Layout) (data : List Byte) : List Byte :=
  let blocks := splitBlocks y.lengths data
  interleave blocks (blocks.map fun b => rsRem b y.n) y.n

/-- `run` of ECCBLK (42_reed_solomon.md R190). -/
def runEccblk (snap : Store) : CmdResult :=
  let y := snap.layoutArg
  if y.Legal then
    .ok { cw := placeAt Config.outBase (encodeBlocks y (snap.cwList 0 y.dataTotal))
          result := some (toWord y.total) }
  else .err .layout

/-! ### The commands -/

/-- RSGEN n (42_reed_solomon.md R182). -/
def execRsgen (n : Byte) (s : State) : Host.Outcome State Fault Refusal := s.complete (runRsgen n)

/-- RSENC n, k (42_reed_solomon.md R184). -/
def execRsenc (n k : Byte) (s : State) : Host.Outcome State Fault Refusal :=
  s.complete (runRsenc n k s.snap)

/-- RSSYN n, L (42_reed_solomon.md R186). -/
def execRssyn (n l : Byte) (s : State) : Host.Outcome State Fault Refusal :=
  s.complete (runRssyn n l s.snap)

/-- ECCBLK (42_reed_solomon.md R190). -/
def execEccblk (s : State) : Host.Outcome State Fault Refusal := s.complete (runEccblk s.snap)

end Sys2Proof.Machine
end

