-- ==== Sys2Proof/Machine/Reset.lean ====
section
/-!
DEFINITION. The two resets (70_reset_and_hazards.md R320–R324) and what a reset does to a command in flight (R323).
-/

namespace Sys2Proof.Machine

/-- `run` of every command on a snapshot (40_control.md R142). `exec` completes with the same results. -/
def runInstr (i : Instr) (snap : Store) : CmdResult :=
  match i with
  | .nop => runNop
  | .gfmul a b => runGfmul a b
  | .gfexp e => runGfexp e
  | .gflog a => runGflog a
  | .gfinv a => runGfinv a
  | .rsgen n => runRsgen n
  | .rsenc n k => runRsenc n k snap
  | .rssyn n l => runRssyn n l snap
  | .eccblk => runEccblk snap
  | .mxinit => runMxinit snap
  | .mxplace => runMxplace snap
  | .mxmask k => runMxmask k snap
  | .mxscore k => runMxscore k snap
  | .mxselect => runMxselect snap

/-- `run(decode(w), snap)` (40_control.md R142): a word that does not decode is BADOPC (30_encoding.md R114, R115). -/
def runWord (w : Word) (snap : Store) : CmdResult :=
  match decode w with
  | .ok i => runInstr i snap
  | .error _ => .err .badopc

/-- The writes the command in flight would have made; none if it would have failed (70_reset_and_hazards.md
R323: "A command that would have failed writes nothing, so its destination range is empty"). -/
def pendingWrites (w : Word) (snap : Store) : Writes :=
  match runWord w snap with
  | .ok ws => ws
  | .err _ => {}

/-- The buffers and the plane after the abandonment with number `k` of a command that would have made the writes
`w` (70_reset_and_hazards.md R323): every byte of the destination range is free, every other byte is
unchanged, and a plane the command was writing holds unspecified contents (log entry 5). -/
def Store.abandon (st : Store) (w : Writes) (k : Nat) : Store :=
  { st with
    mem := st.mem.setBytes (w.bytes.map fun p => (p.1, Config.abandonedByte k p.1))
    plane := if w.whole.isSome || !w.modules.isEmpty then [] else st.plane }

/-- Every CSR takes its reset value and the matrix latch is cleared (70_reset_and_hazards.md R321, R322). -/
def Store.resetCsrs (st : Store) : Store :=
  { st with csr := Csrs.reset, mxvalid := false, mxver := 0 }

/-- Soft reset (70_reset_and_hazards.md R322, R323): CW, SB and M keep their values, except that a command in
flight is abandoned. -/
def State.softReset (s : State) : State :=
  match s.engine with
  | .idle => { s with store := s.store.resetCsrs }
  | .busy w snap =>
    { s with
      store := (s.store.abandon (pendingWrites w snap) s.abandons).resetCsrs
      engine := .idle
      abandons := s.abandons + 1 }

/-- Power-on reset (70_reset_and_hazards.md R321): CW, SB and M hold unspecified values. -/
def State.powerOnReset (s : State) : State :=
  { s with
    store :=
      { csr := Csrs.reset
        mem := { cells := [], epoch := s.store.mem.epoch + 1 }
        plane := []
        mxvalid := false
        mxver := 0 }
    engine := .idle }

end Sys2Proof.Machine
end

