-- ==== Sys2Proof/Machine/Bus.lean ====
section
/-!
DEFINITION. Host accesses (20_memory.md R80–R91): the address map, which accesses are refused (R82), what a read
returns and what a write does (10_state.md R33–R53), and the bus error (60_exceptions.md R290).
-/

namespace Sys2Proof.Machine

/-- The block address a host address reaches: host address `QRC_BASE + a` reaches block address a
(20_memory.md R80, 60_exceptions.md R302); `none` for a host address outside the block. -/
def blockAddress (hostAddr : Nat) : Option Addr :=
  if Config.qrcBase ≤ hostAddr ∧ hostAddr < Config.qrcBase + 0x10000 then
    some (BitVec.ofNat 16 (hostAddr - Config.qrcBase))
  else none

/-- The regions of the block address map (20_memory.md R81). -/
inductive Region where
  | csrWindow
  | buffer
  | unmapped
  deriving DecidableEq, Repr

/-- The block address map (20_memory.md R81). -/
def regionOf (a : Nat) : Region :=
  if a < 0x100 then .csrWindow
  else if isBufferAddr a then .buffer
  else .unmapped

/-- The address of an access. -/
def Access.addr : Access → Addr
  | .read a _ => a
  | .write a _ _ => a

/-- The width of an access in bytes. -/
def Access.width : Access → Nat
  | .read _ n => n
  | .write _ n _ => n

/-- While BUSY the host may only read ID, CTRL and STATUS and write CTRL and STATUS (20_memory.md R89). -/
def busyAllows (acc : Access) : Bool :=
  match acc, csrAt acc.addr.toNat with
  | .read _ _, some .id => true
  | .read _ _, some .ctrl => true
  | .read _ _, some .status => true
  | .write _ _ _, some .ctrl => true
  | .write _ _ _, some .status => true
  | _, _ => false

/-- MADDR selects a module of a valid matrix (10_state.md R51). -/
def Store.mdataOpen (st : Store) : Bool :=
  st.mxvalid && st.csr.row.toNat < sideLength st.matrixVersion && st.csr.col.toNat < sideLength st.matrixVersion

/-- The access is refused with a bus error: the conditions of 20_memory.md R82, one a line. -/
def refused (acc : Access) (s : State) : Bool :=
  let a := acc.addr.toNat
  let n := acc.width
  let inCsrs := regionOf a = .csrWindow
  (n ≠ 1 && n ≠ 2 && n ≠ 4)
    || a % n ≠ 0
    || regionOf a = .unmapped
    || (inCsrs && n ≠ 4)
    || (inCsrs && csrAt a = none)
    || (s.engine.isBusy && !busyAllows acc)
    || (csrAt a = some .mdata && !s.store.mdataOpen)

/-- What csr[MDATA] reads (10_state.md R51): bit 0 the module, bit 1 whether it is a function module. -/
def Store.readMdata (st : Store) : Word :=
  let r := st.csr.row.toNat
  let c := st.csr.col.toNat
  bitAt (st.plane.module r c) 0 ||| bitAt (isFunc st.matrixVersion r c) 1

/-- What a CSR reads (10_state.md R33–R53). -/
def readCsr (r : Csr) (s : State) : Word :=
  let c := s.store.csr
  match r with
  | .id => Config.idValue
  | .ctrl => ctrlWord c
  | .status => statusWord s
  | .cmd => 0
  | .version => c.version.setWidth 32
  | .layout0 => packBytes c.b1 c.k1 c.b2 c.k2
  | .layout1 => c.nec.setWidth 32
  | .arg0 => c.src.setWidth 32
  | .arg1 => c.dst.setWidth 32
  | .arg2 => c.len.setWidth 32
  | .result => c.result
  | .dmcount => c.dmcount.setWidth 32
  | .pen1 => c.pen1
  | .pen2 => c.pen2
  | .pen3 => c.pen3
  | .pen4 => c.pen4
  | .pentot => c.pentot
  | .maddr => packBytes c.col c.row 0 0
  | .mdata => s.store.readMdata
  | .score k => c.scores[k]

/-- A write of `v` to csr[MDATA] (10_state.md R52). -/
def Store.writeMdata (st : Store) (v : Word) : Store :=
  { st with plane := st.plane.setModule st.csr.row.toNat st.csr.col.toNat (v.getLsbD 0) }

/-- What a write of `v` to a CSR does (10_state.md R33–R53): CMD launches (R40), CTRL with bit 31 set resets (R37),
STATUS is write-one-to-clear (R39), MDATA writes a module (R52), a read-only register ignores the write (R33). -/
def writeCsr (r : Csr) (v : Word) (s : State) : State :=
  match r with
  | .ctrl =>
    if v.getLsbD 31 then s.softReset
    else { s with store := { s.store with csr := s.store.csr.writeEnables v } }
  | .status => { s with store := { s.store with csr := s.store.csr.writeStatus v } }
  | .cmd => s.launch v
  | .mdata => { s with store := s.store.writeMdata v }
  | _ => { s with store := { s.store with csr := s.store.csr.writeOperand r v } }

/-- `MemRead(a, n)` (20_memory.md R82, R84, R86). -/
def hostRead (a : Addr) (n : Nat) (s : State) : Except Fault Word :=
  if refused (.read a n) s then .error (.busError a)
  else
    match csrAt a.toNat with
    | some r => .ok (readCsr r s)
    | none => .ok (s.store.mem.readLe a.toNat n)

/-- `MemWrite(a, n, v)` (20_memory.md R82, R85, R86). -/
def hostWrite (a : Addr) (n : Nat) (v : Word) (s : State) : Except Fault State :=
  if refused (.write a n v) s then .error (.busError a)
  else
    match csrAt a.toNat with
    | some r => .ok (writeCsr r v s)
    | none => .ok { s with store := { s.store with mem := s.store.mem.writeLe a.toNat n v } }

/-- The bus answers the host. -/
def State.answer (s : State) (r : Answer) : State := { s with answers := r :: s.answers }

/-- One host access: a refused one gets the bus's error response and changes nothing else
(60_exceptions.md R290). -/
def State.access (s : State) (acc : Access) : State :=
  match acc with
  | .read a n =>
    match hostRead a n s with
    | .ok v => s.answer (.data v)
    | .error e => s.answer (.error e)
  | .write a n v =>
    match hostWrite a n v s with
    | .ok t => t.answer .written
    | .error e => s.answer (.error e)

end Sys2Proof.Machine
end

