-- ==== Sys2Proof/Machine/Dispatch.lean ====
section
/-!
DEFINITION. The meaning of every command: its completion (40_control.md R142, R143; 60_exceptions.md R292).
-/

namespace Sys2Proof.Machine

def exec (i : Instr) (s : State) : Host.Outcome State Fault Refusal :=
  match i with
  | .nop => Sys2Proof.Machine.execNop s
  | .gfmul a b => Sys2Proof.Machine.execGfmul a b s
  | .gfexp e => Sys2Proof.Machine.execGfexp e s
  | .gflog a => Sys2Proof.Machine.execGflog a s
  | .gfinv a => Sys2Proof.Machine.execGfinv a s
  | .rsgen n => Sys2Proof.Machine.execRsgen n s
  | .rsenc n k => Sys2Proof.Machine.execRsenc n k s
  | .rssyn n l => Sys2Proof.Machine.execRssyn n l s
  | .eccblk => Sys2Proof.Machine.execEccblk s
  | .mxinit => Sys2Proof.Machine.execMxinit s
  | .mxplace => Sys2Proof.Machine.execMxplace s
  | .mxmask k => Sys2Proof.Machine.execMxmask k s
  | .mxscore k => Sys2Proof.Machine.execMxscore k s
  | .mxselect => Sys2Proof.Machine.execMxselect s

end Sys2Proof.Machine
end

