-- ==== Sys2Proof/Machine/Engine.lean ====
section
/-!
DEFINITION. One event of the machine: the engine's turn (40_control.md R142–R144), a host access or a power-on
reset (60_exceptions.md R294).
-/

namespace Sys2Proof.Machine

/-- The engine's turn: while BUSY it decodes the captured word and completes (30_encoding.md R117, "The decoder
runs at completion on the word captured at launch"); while IDLE it waits (70_reset_and_hazards.md R324). -/
def engineTurn (s : State) : Host.Outcome State Fault Refusal :=
  match s.engine with
  | .idle => .next s
  | .busy w _ =>
    match decode w with
    | .ok i => exec i s
    | .error _ => .next (s.failCommand .badopc)

/-- One event (60_exceptions.md R294). -/
def State.event (e : Event) (s : State) : Host.Outcome State Fault Refusal :=
  match e with
  | .host acc => .next (s.access acc)
  | .engine => engineTurn s
  | .powerOn => .next s.powerOnReset

/-- The next event of the agenda; when the agenda is empty, the engine's turn (log entry 1). -/
def nextEvent (s : State) : Host.Outcome State Fault Refusal :=
  match s.agenda with
  | [] => engineTurn s
  | e :: rest => State.event e { s with agenda := rest }

/-- Put an event first on the agenda. -/
def State.schedule (s : State) (e : Event) : State := { s with agenda := e :: s.agenda }

end Sys2Proof.Machine
end

