-- ==== Sys2Proof/Machine/Step.lean ====
section
/-!
DEFINITION. One step of QRC, and how a command word is put where the next step runs it.
-/

namespace Sys2Proof.Machine

/-- One indivisible step (60_exceptions.md R294). -/
def step (s : State) : Host.Outcome State Fault Refusal := nextEvent s

/-- The state in which the next step runs the command word `w`: QRC fetches nothing (10_state.md R32), so a
command comes to run by the host's write to csr[CMD], which launches it (40_control.md R141), and the engine's turn
follows at once (log entry 7). -/
def State.withFetchWord (s : State) (nbits w : Nat) : State :=
  (s.launch (BitVec.ofNat 32 (w % 2 ^ nbits))).schedule .engine

end Sys2Proof.Machine
end

