-- ==== Sys2Proof/Safety.lean ====
section
/-!
DEFINITION. What a safe state of QRC is, and the words in which frames are stated.
-/

namespace Sys2Proof.Machine

/-- A store as the rules of 10_state.md keep it. -/
structure StoreInv (st : Store) : Prop where
  /-- The buffers are in canonical form and inside the SB and CW windows (20_memory.md R81). -/
  memory : st.mem.wf
  /-- ERRCODE is 0 exactly while ERR = 0 (10_state.md R38). -/
  errcode : st.csr.err = false ↔ st.csr.errcode = 0
  /-- ERRCODE is never a reserved code 8–15 (60_exceptions.md R291). -/
  codes : st.csr.errcode.toNat ≤ 7
  /-- While MXVALID = 1, MXVER is a legal version, M is its N × N square and DMCOUNT is DM(MXVER) (10_state.md R48,
  R58). -/
  latched : st.mxvalid = true →
    1 ≤ st.matrixVersion ∧ st.matrixVersion ≤ 40 ∧ st.plane.isSquare (sideLength st.matrixVersion) ∧
      st.csr.dmcount.toNat = dataModules st.matrixVersion
  /-- While MXVALID = 0, MXVER and DMCOUNT are 0 (10_state.md R48, R63). -/
  unlatched : st.mxvalid = false → st.mxver = 0 ∧ st.csr.dmcount = 0
  /-- PENTOT is the sum of the four penalty registers (10_state.md R34, R49). -/
  pentot : st.csr.pentot = st.csr.pen1 + st.csr.pen2 + st.csr.pen3 + st.csr.pen4

/-- The store differs from a snapshot in the interrupt enables at most: while BUSY the host can change
only csr[CTRL] and the STATUS bits, which are 0 (20_memory.md R89, 40_control.md R141, R142). -/
def Store.onlyEnablesDiffer (st snap : Store) : Prop :=
  st = { snap with csr := { snap.csr with doneIe := st.csr.doneIe, errIe := st.csr.errIe } }

/-- The states the rules of the spec keep. -/
structure Inv (s : State) : Prop where
  store : StoreInv s.store
  /-- While BUSY, DONE, ERR and ERRCODE are 0 and the store still is the snapshot but for the enables (40_control.md
  R141, R142). -/
  inFlight : ∀ w snap, s.engine = .busy w snap →
    StoreInv snap ∧ snap.csr.done = false ∧ snap.csr.err = false ∧ snap.csr.errcode = 0 ∧
      s.store.onlyEnablesDiffer snap

/-- A step that goes on: it answers a next state, neither a fault nor a refusal (60_exceptions.md R297: QRC takes no
traps). -/
def StepsOn (s : State) : Prop := ∃ t, step s = .next t

/-! ### Frames -/

/-- Every buffer byte outside a set of block addresses reads as before. -/
def SameBytesOutside (touched : Nat → Prop) (st st' : Store) : Prop :=
  ∀ a, ¬ touched a → st'.mem.byte a = st.mem.byte a

/-- The completion of a command that writes CSRs only: the engine is IDLE and nothing but the CSRs differs. -/
def OnlyCsrsDiffer (s t : State) : Prop :=
  t = { s with engine := .idle, store := { s.store with csr := t.store.csr } }

/-- The completion of a command that writes CSRs and buffers: nothing but the CSRs and the buffers differs. -/
def OnlyCsrsAndBuffersDiffer (s t : State) : Prop :=
  t = { s with engine := .idle, store := { s.store with csr := t.store.csr, mem := t.store.mem } }

/-- The completion of a command that writes CSRs and the matrix plane: nothing but the CSRs and the plane differs. -/
def OnlyCsrsAndPlaneDiffer (s t : State) : Prop :=
  t = { s with engine := .idle, store := { s.store with csr := t.store.csr, plane := t.store.plane } }

/-- The state after a failed completion with a code (60_exceptions.md R292): BUSY 0, DONE 1, ERR 1, ERRCODE the code
and nothing else changed. -/
def FailedWith (code : BitVec 4) (s t : State) : Prop :=
  t = { s with
    engine := .idle
    store := { s.store with csr := { s.store.csr with done := true, err := true, errcode := code } } }

end Sys2Proof.Machine
end

