-- ==== Sys2Proof/Certificates/Slice0/Obligations.lean ====
section
/-!
DEFINITION. The statements for the provers. `s.snap` is what a completing command reads: the launch snapshot
while BUSY (40_control.md R141), and the store itself while IDLE (log entry 6, the model's choice). A statement about
`exec` holds for every state unless it says otherwise. The agenda of coming events and the list of answers are the
model's own (log entries 1 and 2).
-/

open Sys2Proof Sys2Proof.Machine

namespace Sys2Proof.Machine

/-! ### Words the statements use, in numbers rather than in the model's own functions -/

/-- The fields of a word as numbers (30_encoding.md R110). -/
def wordOpc (w : Word) : Nat := w.toNat % 256

@[inherit_doc wordOpc] def wordA (w : Word) : Nat := w.toNat / 256 % 256

@[inherit_doc wordOpc] def wordB (w : Word) : Nat := w.toNat / 65536 % 256

@[inherit_doc wordOpc] def wordC (w : Word) : Nat := w.toNat / 16777216

/-- The words of 30_encoding.md R114 and R115, in numbers. -/
def NoCommand (w : Word) : Prop :=
  wordOpc w ∉ [0x00, 0x01, 0x02, 0x03, 0x04, 0x10, 0x11, 0x12, 0x13, 0x20, 0x21, 0x22, 0x23, 0x24] ∨
    wordC w ≠ 0 ∨
    (wordOpc w ∉ [0x01, 0x02, 0x03, 0x04, 0x10, 0x11, 0x12, 0x22, 0x23] ∧ wordA w ≠ 0) ∨
    (wordOpc w ∉ [0x01, 0x11, 0x12] ∧ wordB w ≠ 0)

/-- The engine's turn is next, and `rest` is the agenda after it. -/
def EngineNext (s : State) (rest : List Event) : Prop :=
  (s.agenda = [] ∧ rest = []) ∨ s.agenda = .engine :: rest

/-- The block addresses of the SB and CW windows (20_memory.md R81), in numbers. -/
def InBuffers (a : Nat) : Prop := (0x1000 ≤ a ∧ a < 0x1100) ∨ (0x2000 ≤ a ∧ a < 0x4000)

/-- The accesses 20_memory.md R89 allows while BUSY, in numbers: reads of ID, CTRL, STATUS, writes of CTRL, STATUS. -/
def AllowedWhileBusy (acc : Access) : Prop :=
  match acc with
  | .read a _ => a.toNat = 0x00 ∨ a.toNat = 0x04 ∨ a.toNat = 0x08
  | .write a _ _ => a.toNat = 0x04 ∨ a.toNat = 0x08

/-- MADDR selects no module of a valid matrix (10_state.md R51). -/
def MdataClosed (st : Store) : Prop :=
  st.mxvalid = false ∨ 17 + 4 * st.mxver.toNat ≤ st.csr.row.toNat ∨ 17 + 4 * st.mxver.toNat ≤ st.csr.col.toNat

/-- The conditions of 20_memory.md R82, in its order and in numbers (offsets 0x4C and 0x70–0xFC are unassigned,
10_state.md R34). -/
def RefusalConditions (acc : Access) (s : State) : Prop :=
  let a := acc.addr.toNat
  let n := acc.width
  (n ≠ 1 ∧ n ≠ 2 ∧ n ≠ 4) ∨
    a % n ≠ 0 ∨
    (0x100 ≤ a ∧ ¬ InBuffers a) ∨
    (a < 0x100 ∧ n ≠ 4) ∨
    (a < 0x100 ∧ (a = 0x4C ∨ 0x70 ≤ a)) ∨
    ((∃ w snap, s.engine = .busy w snap) ∧ ¬ AllowedWhileBusy acc) ∨
    (a = 0x48 ∧ MdataClosed s.store)

/-- Two stores that differ in DONE_IE, ERR_IE, DONE, ERR and ERRCODE at most. -/
def SameButFlagsAndEnables (st st' : Store) : Prop :=
  st' =
    { st with
      csr :=
        { st.csr with
          doneIe := st'.csr.doneIe
          errIe := st'.csr.errIe
          done := st'.csr.done
          err := st'.csr.err
          errcode := st'.csr.errcode } }

/-- The plain read/write CSRs: offset and writable bits (10_state.md R34), in numbers: VERSION, LAYOUT0, LAYOUT1,
ARG0, ARG1, ARG2, MADDR. -/
def plainCsrs : List (Addr × Word) :=
  [(0x10, 0x3F), (0x14, 0xFFFFFFFF), (0x18, 0xFF), (0x1C, 0x1FFF), (0x20, 0x1FFF), (0x24, 0x3FFF),
    (0x44, 0xFFFF)]

/-- The offsets of the CSRs marked RO in 10_state.md R34, in numbers: ID, RESULT, DMCOUNT, PEN1 … PENTOT, SCORE0 …
SCORE7. -/
def readOnlyOffsets : List Addr :=
  [0x00, 0x28, 0x2C, 0x30, 0x34, 0x38, 0x3C, 0x40] ++ [0x50, 0x54, 0x58, 0x5C, 0x60, 0x64, 0x68, 0x6C]

/-- What the CSRs readable at all times (20_memory.md R89) read, by offset and as numbers (10_state.md R34): ID, CTRL,
STATUS. -/
def readsAtAllTimes (s : State) : List (Addr × Nat) :=
  let c := s.store.csr
  [(0x00, 0x51524331), (0x04, c.doneIe.toNat + 2 * c.errIe.toNat),
    (0x08,
      (match s.engine with
        | .idle => 0
        | .busy _ _ => 1) +
        2 * c.done.toNat + 4 * c.err.toNat + 256 * c.errcode.toNat +
        65536 * s.store.mxvalid.toNat + 16777216 * s.store.mxver.toNat)]

/-- What the other CSRs but MDATA and the SCORE registers read, by offset and as numbers (10_state.md R34): CMD,
VERSION, LAYOUT0, LAYOUT1, ARG0–ARG2, RESULT, DMCOUNT, PEN1–PEN4, PENTOT, MADDR. -/
def readsWhileIdle (c : Csrs) : List (Addr × Nat) :=
  [(0x0C, 0), (0x10, c.version.toNat),
    (0x14, c.b1.toNat + 256 * c.k1.toNat + 65536 * c.b2.toNat + 16777216 * c.k2.toNat),
    (0x18, c.nec.toNat), (0x1C, c.src.toNat), (0x20, c.dst.toNat), (0x24, c.len.toNat),
    (0x28, c.result.toNat), (0x2C, c.dmcount.toNat)] ++
  [(0x30, c.pen1.toNat), (0x34, c.pen2.toNat), (0x38, c.pen3.toNat), (0x3C, c.pen4.toNat),
    (0x40, c.pentot.toNat), (0x44, c.col.toNat + 256 * c.row.toNat)]

/-- When a layout is legal (42_reed_solomon.md R187), in numbers. -/
abbrev LegalNumbers (b1 k1 b2 k2 nec : Nat) : Prop :=
  1 ≤ b1 ∧ 1 ≤ k1 ∧ 1 ≤ nec ∧ k1 + nec ≤ 255 ∧ (b2 = 0 ∨ (k1 ≤ k2 ∧ k2 + nec ≤ 255)) ∧
    b1 * k1 + b2 * k2 ≤ 4096 ∧ b1 * k1 + b2 * k2 + (b1 + b2) * nec ≤ 4096

/-- The error a command completes with, by the checks of 60_exceptions.md R291 in the order of R293 and with its code
numbers; `none` when it succeeds. -/
def expectedError (i : Instr) (st : Store) : Option (BitVec 4) :=
  match i with
  | .nop | .gfmul _ _ | .gfexp _ => none
  | .gflog a | .gfinv a => if a.toNat = 0 then some 2 else none
  | .rsgen n => if n.toNat = 0 then some 2 else none
  | .rsenc n k =>
    if n.toNat = 0 ∨ k.toNat = 0 ∨ n.toNat + k.toNat > 255 then some 2
    else if st.csr.src.toNat + k.toNat > 8192 ∨ st.csr.dst.toNat + n.toNat > 8192 then some 3
    else none
  | .rssyn n l =>
    if n.toNat = 0 ∨ l.toNat = 0 then some 2
    else if st.csr.src.toNat + l.toNat > 8192 then some 3
    else none
  | .eccblk =>
    if LegalNumbers st.csr.b1.toNat st.csr.k1.toNat st.csr.b2.toNat st.csr.k2.toNat st.csr.nec.toNat then none
    else some 4
  | .mxinit => if 1 ≤ st.csr.version.toNat ∧ st.csr.version.toNat ≤ 40 then none else some 5
  | .mxplace =>
    if st.mxvalid = false then some 6
    else if st.csr.src.toNat + st.csr.len.toNat > 8192 then some 3
    else if 8 * st.csr.len.toNat > dataModules st.mxver.toNat ∨
        dataModules st.mxver.toNat - 8 * st.csr.len.toNat > 7 then some 7
    else none
  | .mxmask k => if k.toNat > 7 then some 2 else if st.mxvalid = false then some 6 else none
  | .mxscore k => if k.toNat > 8 then some 2 else if st.mxvalid = false then some 6 else none
  | .mxselect => if st.mxvalid = false then some 6 else none

/-- The destination range of a command in flight (the table of 70_reset_and_hazards.md R323): the block addresses
whose contents a reset leaves unspecified. A command that would have failed has none. -/
def DestinationRange (i : Instr) (st : Store) (a : Nat) : Prop :=
  expectedError i st = none ∧
    match i with
    | .rsgen n => 0x1000 ≤ a ∧ a ≤ 0x1000 + n.toNat
    | .rsenc n _ => 0x2000 + st.csr.dst.toNat ≤ a ∧ a < 0x2000 + st.csr.dst.toNat + n.toNat
    | .rssyn n _ => 0x1000 ≤ a ∧ a < 0x1000 + n.toNat
    | .eccblk => 0x3000 ≤ a ∧ a < 0x3000 + st.layoutArg.total
    | _ => False

/-- The pair of columns column c ≠ 6 belongs to, counted from the right (43_matrix.md R223): column 6 is in none. -/
def columnPair (v c : Nat) : Nat := if c > 6 then (16 + 4 * v - c) / 2 else (15 + 4 * v - c) / 2

/-- Data module m comes before data module m' in the order of 43_matrix.md R223: column pairs from the right, even
pairs upward, odd pairs downward, in each row the right column first. -/
def VisitedBefore (v : Nat) (m m' : Nat × Nat) : Prop :=
  columnPair v m.2 < columnPair v m'.2 ∨
    (columnPair v m.2 = columnPair v m'.2 ∧
      ((columnPair v m.2 % 2 = 0 ∧ m'.1 < m.1) ∨ (columnPair v m.2 % 2 = 1 ∧ m.1 < m'.1) ∨
        (m.1 = m'.1 ∧ m'.2 < m.2)))

/-- mask_k is true at row i, column j (44_mask.md R251), the eight formulas in numbers. -/
def maskTrue (k i j : Nat) : Bool :=
  (k = 0 ∧ (i + j) % 2 = 0) ∨ (k = 1 ∧ i % 2 = 0) ∨ (k = 2 ∧ j % 3 = 0) ∨ (k = 3 ∧ (i + j) % 3 = 0) ∨
    (k = 4 ∧ (i / 2 + j / 3) % 2 = 0) ∨ (k = 5 ∧ i * j % 2 + i * j % 3 = 0) ∨
    (k = 6 ∧ (i * j % 2 + i * j % 3) % 2 = 0) ∨ (k = 7 ∧ ((i + j) % 2 + i * j % 3) % 2 = 0)

/-- The total penalty of the matrix of a store under mask k (44_mask.md R259, R261). -/
def maskTotal (st : Store) (k : Nat) : Nat :=
  (penaltyOf (17 + 4 * st.mxver.toNat) (masked st.mxver.toNat st.plane k)).total

/-- A maximal run of l equal modules starts at position i of a line of n modules (44_mask.md R255), in numbers. -/
def maximalRun (n : Nat) (s : Nat → Bool) (i l : Nat) : Bool :=
  1 ≤ l ∧ i + l ≤ n ∧ (∀ j < l, s (i + j) = s i) ∧ (i = 0 ∨ s (i - 1) ≠ s i) ∧ (i + l = n ∨ s (i + l) ≠ s i)

/-- What penalty rule 1 adds for a line (44_mask.md R255): L − 2 for each maximal run of length L ≥ 5. -/
def runScore (n : Nat) (s : Nat → Bool) : Nat :=
  ∑ i ∈ Finset.range n, ∑ l ∈ Finset.Icc 5 n, if maximalRun n s i l then l - 2 else 0

/-- The modules i … i + 10 of a line, as numbers, are one of the two patterns of 44_mask.md R257. -/
def finderLike (s : Nat → Bool) (i : Nat) : Bool :=
  (List.range 11).map (fun j => (s (i + j)).toNat) ∈
    [[1, 0, 1, 1, 1, 0, 1, 0, 0, 0, 0], [0, 0, 0, 0, 1, 0, 1, 1, 1, 0, 1]]

/-- What penalty rule 3 adds for a line (44_mask.md R257): 40 for each start i in 0 … n − 11 of a pattern. -/
def finderScore (n : Nat) (s : Nat → Bool) : Nat :=
  40 * ((Finset.range n).filter fun i => i + 11 ≤ n ∧ finderLike s i = true).card

/-- The sum over the 2n lines of a matrix (44_mask.md R254): its rows and its columns. -/
def overLines (n : Nat) (x : Plane) (f : (Nat → Bool) → Nat) : Nat :=
  (∑ r ∈ Finset.range n, f fun i => x.module r i) + ∑ c ∈ Finset.range n, f fun i => x.module i c

/-- The positions of an n × n matrix. -/
def positions (n : Nat) : Finset (Nat × Nat) := Finset.range n ×ˢ Finset.range n

/-- The top-left modules of the 2 × 2 windows of four equal modules (44_mask.md R256). -/
def uniformWindows (n : Nat) (x : Plane) : Finset (Nat × Nat) :=
  (positions n).filter fun m =>
    m.1 + 2 ≤ n ∧ m.2 + 2 ≤ n ∧ x.module m.1 (m.2 + 1) = x.module m.1 m.2 ∧
      x.module (m.1 + 1) m.2 = x.module m.1 m.2 ∧ x.module (m.1 + 1) (m.2 + 1) = x.module m.1 m.2

/-- The modules equal to 1 (44_mask.md R258). -/
def darkModules (n : Nat) (x : Plane) : Finset (Nat × Nat) :=
  (positions n).filter fun m => x.module m.1 m.2 = true

/-- The first data codeword of block b (42_reed_solomon.md R188: o_b). -/
def blockStart (y : Layout) (b : Nat) : Nat :=
  if b < y.b1 then b * y.k1 else y.b1 * y.k1 + (b - y.b1) * y.k2

/-- The number of data codewords of block b (42_reed_solomon.md R187: k_b). -/
def blockLength (y : Layout) (b : Nat) : Nat := if b < y.b1 then y.k1 else y.k2

/-- The data codewords of block b (42_reed_solomon.md R188). -/
def blockData (y : Layout) (data : List Byte) (b : Nat) : List Byte :=
  (data.drop (blockStart y b)).take (blockLength y b)

end Sys2Proof.Machine

/-! ### Encoding -/

/-- 30_encoding.md R117, R118: every command is well formed, and decoding its word gives it back with every operand.
-/
def Obligations.DecodeOfEncodeIsTheCommand : Prop :=
  ∀ i : Instr, i.WellFormed ∧ decode (encode i) = .ok i

/-- 30_encoding.md R116, R117: no two words decode to one command: a word that decodes is the command's own. -/
def Obligations.EncodeOfDecodeIsTheWord : Prop :=
  ∀ (w : Word) (i : Instr), decode w = .ok i → encode i = w

/-- 30_encoding.md R114, R115, R117: the words that decode to no command are exactly those with a reserved opcode, a
nonzero C field, or a nonzero A or B field the command does not use. -/
def Obligations.WordsWithoutCommand : Prop :=
  ∀ w : Word, (∃ e, decode w = .error e) ↔ NoCommand w

/-- 30_encoding.md R113, R118: words written out from the encoding decode to the commands they stand for. -/
def Obligations.WrittenOutWordsDecode : Prop :=
  decode 0x00000000 = .ok .nop ∧ decode 0x00CA5301 = .ok (.gfmul 0x53 0xCA) ∧
    decode 0x00005303 = .ok (.gflog 0x53) ∧ decode 0x00000710 = .ok (.rsgen 7) ∧
    decode 0x00100A11 = .ok (.rsenc 10 16) ∧ decode 0x001A0A12 = .ok (.rssyn 10 26) ∧
    decode 0x00000013 = .ok .eccblk ∧ decode 0x00000021 = .ok .mxplace ∧
    decode 0x00000823 = .ok (.mxscore 8)

/-! ### The command life cycle -/

/-- 40_control.md R142, R145, 70_reset_and_hazards.md R324: a step in which the engine has its turn runs the decoded
command while BUSY and changes nothing but the agenda while IDLE, where the engine waits for a write to CMD;
`withFetchWord` puts a word where the next step runs it, by the launch of 40_control.md R141. The agenda and
`withFetchWord` are the model's (log entries 1, 7). -/
def Obligations.StepRunsTheDecodedCommand : Prop :=
  (∀ (s : State) (w : Word) (snap : Store) (i : Instr) (rest : List Event),
    s.engine = .busy w snap → decode w = .ok i → EngineNext s rest →
      step s = exec i { s with agenda := rest }) ∧
    (∀ (s : State) (rest : List Event),
      s.engine = .idle → EngineNext s rest → step s = .next { s with agenda := rest }) ∧
    ∀ (s : State) (i : Instr), step (s.withFetchWord 32 (encode i).toNat) = exec i (s.launch (encode i))

/-- 40_control.md R141: a write of any word to csr[CMD] while IDLE clears DONE, ERR and ERRCODE, takes the snapshot
and makes the engine BUSY, without decoding; nothing else changes, and BUSY reads 1. That the snapshot holds the
cleared flags is the model's (log entry 12, DEDUCED); the agenda and the answers are too (log entries 1, 2). -/
def Obligations.CmdWriteLaunches : Prop :=
  ∀ (s : State) (w : Word) (rest : List Event),
    s.engine = .idle → s.agenda = .host (.write 0x0C 4 w) :: rest →
      ∃ t snap, step s = .next t ∧
        snap = { s.store with csr := { s.store.csr with done := false, err := false, errcode := 0 } } ∧
        t = { s with
          store := snap
          engine := .busy w snap
          agenda := rest
          answers := .written :: s.answers } ∧
        (readCsr .status t).getLsbD 0 = true

/-- 60_exceptions.md R292: a command whose `run` returns `Err(code)` ends with BUSY 0, DONE 1, ERR 1, ERRCODE the
code, and nothing else changed. The agenda (log entry 1) is the model's. -/
def Obligations.FailedCompletionChangesOnlyStatus : Prop :=
  ∀ (s : State) (w : Word) (snap : Store) (e : ErrCode) (rest : List Event),
    s.engine = .busy w snap → EngineNext s rest → runWord w snap = .err e →
      ∃ t, step s = .next t ∧ FailedWith e.code { s with agenda := rest } t

/-- 30_encoding.md R114, R115: a word that is no command completes with BADOPC (code 1) and changes nothing else.
The agenda (log entry 1) is the model's. -/
def Obligations.NoCommandCompletesWithBadopc : Prop :=
  ∀ (s : State) (w : Word) (snap : Store) (rest : List Event),
    s.engine = .busy w snap → EngineNext s rest → NoCommand w →
      ∃ t, step s = .next t ∧ FailedWith 1 { s with agenda := rest } t

/-- 60_exceptions.md R291, R293: each command fails exactly when its first failing check says so, with that check's
code, and otherwise succeeds (40_control.md R143: DONE 1, ERR and ERRCODE as they were). -/
def Obligations.CommandErrorsExactly : Prop :=
  ∀ (i : Instr) (s : State),
    match expectedError i s.snap with
    | some code => ∃ t, exec i s = .next t ∧ FailedWith code s t
    | none =>
      ∃ t, exec i s = .next t ∧ t.engine = .idle ∧ t.store.csr.done = true ∧
        t.store.csr.err = s.store.csr.err ∧ t.store.csr.errcode = s.store.csr.errcode

/-- 20_memory.md R92, 40_control.md R143: no command writes an operand CSR, an interrupt enable or MADDR; every
completion leaves the engine IDLE with DONE set and the model's agenda, answers and count of abandoned commands as
they were. -/
def Obligations.CompletionLeavesOperandsAlone : Prop :=
  ∀ (i : Instr) (s t : State), exec i s = .next t →
    t.engine = .idle ∧ t.store.csr.done = true ∧
      t.agenda = s.agenda ∧ t.answers = s.answers ∧ t.abandons = s.abandons ∧
      t.store.csr.doneIe = s.store.csr.doneIe ∧ t.store.csr.errIe = s.store.csr.errIe ∧
      t.store.csr.version = s.store.csr.version ∧
      t.store.csr.b1 = s.store.csr.b1 ∧ t.store.csr.k1 = s.store.csr.k1 ∧
      t.store.csr.b2 = s.store.csr.b2 ∧ t.store.csr.k2 = s.store.csr.k2 ∧
      t.store.csr.nec = s.store.csr.nec ∧ t.store.csr.src = s.store.csr.src ∧
      t.store.csr.dst = s.store.csr.dst ∧ t.store.csr.len = s.store.csr.len ∧
      t.store.csr.row = s.store.csr.row ∧ t.store.csr.col = s.store.csr.col

/-- 40_control.md R142: `run` depends on nothing the host can change while BUSY: not on DONE, ERR, ERRCODE or the
enables; so in every state the invariant admits it returns the same on the snapshot and on the store. -/
def Obligations.RunReadsNeitherFlagsNorEnables : Prop :=
  (∀ (w : Word) (st st' : Store), SameButFlagsAndEnables st st' → runWord w st' = runWord w st) ∧
    ∀ (s : State) (w : Word) (snap : Store), Inv s → s.engine = .busy w snap →
      runWord w s.store = runWord w snap

/-- 60_exceptions.md R290, R292, R297: nothing stops QRC: every step from every state answers a next state. -/
def Obligations.EveryStepGoesOn : Prop := ∀ s : State, StepsOn s

/-- The invariant of the model (10_state.md R38, R48, R49, R58; 20_memory.md R81; 40_control.md R142) is kept by
every step. A plane as a list of rows is the model's (log entry 5). -/
def Obligations.StepKeepsTheInvariant : Prop :=
  ∀ s t : State, Inv s → step s = .next t → Inv t

/-- The state after reset meets the invariant. -/
def Obligations.ResetMeetsTheInvariant : Prop := Inv State.reset

/-! ### Reset -/

/-- 70_reset_and_hazards.md R321, 10_state.md R34: power-on reset leaves ID reading its constant and every other CSR
0, the latch clear, the engine IDLE and irq 0; every buffer byte holds the free power-on value (log entry 3), and
MDATA is refused. The agenda and the answers (log entries 1, 2) are the model's. -/
def Obligations.PowerOnReset : Prop :=
  ∀ (s : State) (rest : List Event), s.agenda = .powerOn :: rest →
    ∃ t, step s = .next t ∧ t.engine = .idle ∧ t.agenda = rest ∧ t.answers = s.answers ∧
      t.store.mxvalid = false ∧ t.store.mxver = 0 ∧ t.irq = false ∧
      readCsr .id t = 0x51524331 ∧
      (∀ r : Csr, r ≠ .id → r ≠ .mdata → readCsr r t = 0) ∧
      hostRead 0x48 4 t = .error (.busError 0x48) ∧
      ∀ a, t.store.mem.byte a = Config.powerOnByte (s.store.mem.epoch + 1) a

/-- 70_reset_and_hazards.md R322, 10_state.md R37: a write to CTRL with bit 31 set while IDLE resets every CSR,
whatever the other bits, clears the latch, and keeps every byte of CW and SB and the plane. The agenda and the
answers (log entries 1, 2) are the model's. -/
def Obligations.SoftResetWhileIdle : Prop :=
  ∀ (s : State) (v : Word) (rest : List Event),
    s.engine = .idle → v.getLsbD 31 = true → s.agenda = .host (.write 0x04 4 v) :: rest →
      ∃ t, step s = .next t ∧ t.engine = .idle ∧ t.agenda = rest ∧ t.answers = .written :: s.answers ∧
        t.store.mxvalid = false ∧ t.store.mxver = 0 ∧ t.irq = false ∧
        readCsr .id t = 0x51524331 ∧
        (∀ r : Csr, r ≠ .id → r ≠ .mdata → readCsr r t = 0) ∧
        (∀ a, t.store.mem.byte a = s.store.mem.byte a) ∧ t.store.plane = s.store.plane

/-- 70_reset_and_hazards.md R323: a soft reset while BUSY abandons the command: every CSR is reset, the engine is
IDLE, the latch is clear, DONE and ERR are not set, and every buffer byte outside the command's destination range is
unchanged; a word that is no command has no destination range. The agenda and the answers (log entries 1, 2) are the
model's. -/
def Obligations.SoftResetAbandonsTheCommand : Prop :=
  ∀ (s : State) (w v : Word) (snap : Store) (rest : List Event),
    s.engine = .busy w snap → v.getLsbD 31 = true → s.agenda = .host (.write 0x04 4 v) :: rest →
      ∃ t, step s = .next t ∧ t.engine = .idle ∧ t.agenda = rest ∧ t.answers = .written :: s.answers ∧
        t.store.mxvalid = false ∧ t.store.mxver = 0 ∧
        (∀ r : Csr, r ≠ .id → r ≠ .mdata → readCsr r t = 0) ∧
        SameBytesOutside (fun a => ∃ i, decode w = .ok i ∧ DestinationRange i snap a) s.store t.store

/-! ### Host accesses -/

/-- 20_memory.md R84: a read of n buffer bytes returns byte a + j in bits [8j+7:8j] and 0 above them. -/
def Obligations.BufferReadIsLittleEndian : Prop :=
  ∀ (s : State) (a : Addr) (n : Nat),
    s.engine = .idle → InBuffers a.toNat → (n = 1 ∨ n = 2 ∨ n = 4) → a.toNat % n = 0 →
      ∃ v, hostRead a n s = .ok v ∧ v.toNat < 2 ^ (8 * n) ∧
        ∀ j < n, v.extractLsb' (8 * j) 8 = s.store.mem.byte (a.toNat + j)

/-- 20_memory.md R85: a write of n bytes of v sets byte a + j to v[8j+7:8j] for j < n and changes no other byte and
no other state. -/
def Obligations.BufferWriteIsLittleEndian : Prop :=
  ∀ (s : State) (a : Addr) (n : Nat) (v : Word),
    s.engine = .idle → InBuffers a.toNat → (n = 1 ∨ n = 2 ∨ n = 4) → a.toNat % n = 0 →
      ∃ t, hostWrite a n v s = .ok t ∧
        t = { s with store := { s.store with mem := t.store.mem } } ∧
        (∀ j < n, t.store.mem.byte (a.toNat + j) = v.extractLsb' (8 * j) 8) ∧
        SameBytesOutside (fun x => a.toNat ≤ x ∧ x < a.toNat + n) s.store t.store

/-- 20_memory.md R82, 60_exceptions.md R290: a host access is refused exactly under the conditions of R82; a refused
one gets the bus's error response and changes no state of QRC, and one that is not refused completes: a read answers
the data of `hostRead`, a write makes the change of `hostWrite` and answers that it is done. The agenda and the
answers (log entries 1, 2) are the model's. -/
def Obligations.RefusedAccessesExactly : Prop :=
  ∀ (s : State) (acc : Access) (rest : List Event), s.agenda = .host acc :: rest →
    (RefusalConditions acc s →
      step s = .next { s with agenda := rest, answers := .error (.busError acc.addr) :: s.answers }) ∧
    (¬ RefusalConditions acc s →
      match acc with
      | .read a n =>
        ∃ v, hostRead a n { s with agenda := rest } = .ok v ∧
          step s = .next { s with agenda := rest, answers := .data v :: s.answers }
      | .write a n v =>
        ∃ t, hostWrite a n v { s with agenda := rest } = .ok t ∧ t.agenda = rest ∧ t.answers = s.answers ∧
          step s = .next { t with answers := .written :: s.answers })

/-- 20_memory.md R89, R90: while BUSY a host access leaves the command in flight, its snapshot, the buffers, the
plane, the latch and every CSR but the enables, DONE, ERR and ERRCODE alone, unless it is the soft reset, after
which the engine is IDLE. The agenda (log entry 1) is the model's. -/
def Obligations.HostCannotDisturbACommand : Prop :=
  ∀ (s t : State) (w : Word) (snap : Store) (acc : Access) (rest : List Event),
    s.engine = .busy w snap → s.agenda = .host acc :: rest → step s = .next t →
      (t.engine = .busy w snap ∧ SameButFlagsAndEnables s.store t.store) ∨
        (t.engine = .idle ∧ ∃ v : Word, acc = .write 0x04 4 v ∧ v.getLsbD 31 = true)

/-- 20_memory.md R90: a host read changes no state of QRC; it answers the data or the error of `hostRead`. The agenda
and the answers (log entries 1, 2) are the model's. -/
def Obligations.ReadsChangeNothing : Prop :=
  ∀ (s : State) (a : Addr) (n : Nat) (rest : List Event), s.agenda = .host (.read a n) :: rest →
    ∃ r, step s = .next { s with agenda := rest, answers := r :: s.answers } ∧
      ((∃ v, hostRead a n { s with agenda := rest } = .ok v ∧ r = .data v) ∨
        (hostRead a n { s with agenda := rest } = .error (.busError a) ∧ r = .error (.busError a)))

/-- 20_memory.md R90: every write other than the CMD write is idempotent. -/
def Obligations.WritesAreIdempotent : Prop :=
  ∀ (s t : State) (a : Addr) (n : Nat) (v : Word),
    a ≠ 0x0C → hostWrite a n v s = .ok t → hostWrite a n v t = .ok t

/-- 10_state.md R33, R34, R41–R46, R50: while IDLE, a write to a plain read/write CSR, at its offset of R34, sets its
writable bits from the value, every other read of any address answers as before (MDATA, which MADDR selects, aside)
and nothing but the CSRs changes; a write to a read-only CSR changes nothing. -/
def Obligations.CsrWritesReadBack : Prop :=
  ∀ (s : State) (v : Word), s.engine = .idle →
    (∀ p ∈ plainCsrs,
      ∃ t, hostWrite p.1 4 v s = .ok t ∧ hostRead p.1 4 t = .ok (v &&& p.2) ∧
        t = { s with store := { s.store with csr := t.store.csr } } ∧
        ∀ (a : Addr) (n : Nat), a ≠ p.1 → a ≠ 0x48 → hostRead a n t = hostRead a n s) ∧
    ∀ a ∈ readOnlyOffsets, hostWrite a 4 v s = .ok s

/-- 10_state.md R33–R53, 20_memory.md R86: a 4-byte read at an assigned offset of R34 answers that CSR's value, its
reserved bits 0: ID, CTRL and STATUS at all times (R35, 20_memory.md R89), every other CSR while IDLE, MDATA where
MADDR selects a module of a valid matrix (R51). -/
def Obligations.CsrReadsAnswerTheirValues : Prop :=
  ∀ s : State,
    (∀ p ∈ readsAtAllTimes s, ∃ d, hostRead p.1 4 s = .ok d ∧ d.toNat = p.2) ∧
      (s.engine = .idle →
        (∀ p ∈ readsWhileIdle s.store.csr, ∃ d, hostRead p.1 4 s = .ok d ∧ d.toNat = p.2) ∧
        (∀ k : Fin 8, hostRead (BitVec.ofNat 16 (0x50 + 4 * k.val)) 4 s = .ok s.store.csr.scores[k]) ∧
        (¬ MdataClosed s.store →
          ∃ d, hostRead 0x48 4 s = .ok d ∧
            d.toNat =
              (s.store.plane.module s.store.csr.row.toNat s.store.csr.col.toNat).toNat +
                2 * (isFunc s.store.mxver.toNat s.store.csr.row.toNat s.store.csr.col.toNat).toNat))

/-- 10_state.md R36, R37: a write to CTRL with bit 31 clear updates DONE_IE and ERR_IE only, while IDLE and while
BUSY; CTRL then reads the two enables. -/
def Obligations.CtrlWriteSetsEnables : Prop :=
  ∀ (s : State) (v : Word), v.getLsbD 31 = false →
    hostWrite 0x04 4 v s =
        .ok { s with
          store := { s.store with
            csr := { s.store.csr with doneIe := v.getLsbD 0, errIe := v.getLsbD 1 } } } ∧
      ∀ t, hostWrite 0x04 4 v s = .ok t → readCsr .ctrl t = v &&& 3

/-- 10_state.md R39: a write to STATUS clears DONE if bit 1 is 1, ERR and ERRCODE together if bit 2 is 1, and
changes nothing else, while IDLE and while BUSY. -/
def Obligations.StatusIsWriteOneToClear : Prop :=
  ∀ (s : State) (v : Word),
    ∃ t, hostWrite 0x08 4 v s = .ok t ∧
      t = { s with
        store := { s.store with
          csr := { s.store.csr with
            done := t.store.csr.done
            err := t.store.csr.err
            errcode := t.store.csr.errcode } } } ∧
      (t.store.csr.done = true ↔ s.store.csr.done = true ∧ v.getLsbD 1 = false) ∧
      (t.store.csr.err = true ↔ s.store.csr.err = true ∧ v.getLsbD 2 = false) ∧
      (v.getLsbD 2 = true → t.store.csr.errcode = 0) ∧
      (v.getLsbD 2 = false → t.store.csr.errcode = s.store.csr.errcode)

/-- 10_state.md R34, R38: what STATUS reads, as a number: BUSY, DONE, ERR, ERRCODE, MXVALID and MXVER in their
places, every reserved bit 0. -/
def Obligations.StatusReadsItsFields : Prop :=
  ∀ s : State,
    (readCsr .status s).toNat =
      (match s.engine with
        | .idle => 0
        | .busy _ _ => 1) +
        2 * s.store.csr.done.toNat + 4 * s.store.csr.err.toNat + 256 * s.store.csr.errcode.toNat +
        65536 * s.store.mxvalid.toNat + 16777216 * s.store.mxver.toNat

/-- 10_state.md R51, R52: on a valid matrix with MADDR inside it, while IDLE, a write to MDATA sets the selected
module to bit 0 of the value and changes no other module and nothing but the plane; MDATA then reads that bit and
the unchanged function bit. The plane is the square of the latched version, as the invariant says. -/
def Obligations.MdataWritesTheSelectedModule : Prop :=
  ∀ (s : State) (v : Word),
    s.engine = .idle → ¬ MdataClosed s.store → s.store.plane.isSquare (17 + 4 * s.store.mxver.toNat) →
      ∃ t, hostWrite 0x48 4 v s = .ok t ∧
        t = { s with store := { s.store with plane := t.store.plane } } ∧
        t.store.plane.module s.store.csr.row.toNat s.store.csr.col.toNat = v.getLsbD 0 ∧
        (∀ r c, r ≠ s.store.csr.row.toNat ∨ c ≠ s.store.csr.col.toNat →
          t.store.plane.module r c = s.store.plane.module r c) ∧
        ∃ d, hostRead 0x48 4 t = .ok d ∧
          d.toNat = (v.getLsbD 0).toNat +
            2 * (isFunc s.store.mxver.toNat s.store.csr.row.toNat s.store.csr.col.toNat).toNat

/-- 10_state.md R61: irq is (DONE and DONE_IE) or (ERR and ERR_IE), in the bits the host reads. -/
def Obligations.IrqFollowsTheFourBits : Prop :=
  ∀ s : State,
    s.irq =
      (((readCsr .status s).getLsbD 1 && (readCsr .ctrl s).getLsbD 0) ||
        ((readCsr .status s).getLsbD 2 && (readCsr .ctrl s).getLsbD 1))

/-! ### NOP and GF(256) -/

/-- 40_control.md R147: NOP completes from every state, sets DONE and writes nothing else, RESULT included. -/
def Obligations.NopOnlyCompletes : Prop :=
  ∀ s : State,
    exec .nop s =
      .next { s with
        engine := .idle
        store := { s.store with csr := { s.store.csr with done := true } } }

/-- 41_gf256.md R166, R167: GFMUL writes a ⊗ b and GFEXP writes α^e to RESULT, zero-extended; DONE is set and
nothing else changes. -/
def Obligations.GfmulAndGfexpResults : Prop :=
  ∀ (s : State) (a b : Byte),
    exec (.gfmul a b) s =
        .next { s with
          engine := .idle
          store := { s.store with
            csr := { s.store.csr with done := true, result := (gfmul a b).setWidth 32 } } } ∧
      exec (.gfexp a) s =
        .next { s with
          engine := .idle
          store := { s.store with
            csr := { s.store.csr with done := true, result := (alphaPow a.toNat).setWidth 32 } } }

/-- 41_gf256.md R168, R169: for a ≠ 0, GFLOG writes the e in 0 … 254 with α^e = a and GFINV the byte whose product
with a is 1, zero-extended; DONE is set and nothing else changes. -/
def Obligations.GflogAndGfinvResults : Prop :=
  ∀ (s : State) (a : Byte), a ≠ 0 →
    ∃ (e : Nat) (b : Byte), e ≤ 254 ∧ alphaPow e = a ∧ gfmul a b = 1 ∧
      exec (.gflog a) s =
        .next { s with
          engine := .idle
          store := { s.store with
            csr := { s.store.csr with done := true, result := BitVec.ofNat 32 e } } } ∧
      exec (.gfinv a) s =
        .next { s with
          engine := .idle
          store := { s.store with
            csr := { s.store.csr with done := true, result := b.setWidth 32 } } }

/-- 41_gf256.md R165: the field laws; the inverse of a ≠ 0 is the one byte α^((255 − log a) mod 255). -/
def Obligations.GfFieldLaws : Prop :=
  (∀ a b : Byte, a ^^^ b = b ^^^ a ∧ gfmul a b = gfmul b a) ∧
    (∀ a b c : Byte, a ^^^ b ^^^ c = a ^^^ (b ^^^ c) ∧ gfmul (gfmul a b) c = gfmul a (gfmul b c)) ∧
    (∀ a b c : Byte, gfmul a (b ^^^ c) = gfmul a b ^^^ gfmul a c) ∧
    (∀ a : Byte, a ^^^ a = 0 ∧ a ^^^ 0 = a ∧ gfmul a 1 = a ∧ gfmul a 0 = 0) ∧
    (∀ a b : Byte, a ≠ 0 → (gfmul a b = 1 ↔ b = alphaPow ((255 - gfLog a) % 255))) ∧
    ∀ i j : Nat, gfmul (alphaPow i) (alphaPow j) = alphaPow (i + j)

/-- 41_gf256.md R162: the table form gives the same product as the polynomial form, on every pair of bytes. -/
def Obligations.GfTableFormAgrees : Prop :=
  ∀ a b : Byte,
    gfmul a b = if a = 0 ∨ b = 0 then 0 else gfExp ((gfLog a + gfLog b) % 255)

/-- 41_gf256.md R163, R164, R170, R171: the exponent table holds the powers of α = 0x02 from α^0 = 1, the logarithm
table is its inverse, and α^255 = 1. -/
def Obligations.TablesArePowersAndLogarithms : Prop :=
  gfExp 0 = 1 ∧ (∀ i < 254, gfExp (i + 1) = gfmul (gfExp i) 0x02) ∧ gfmul (gfExp 254) 0x02 = 1 ∧
    (∀ i < 255, gfLog (gfExp i) = i) ∧ ∀ a : Byte, a ≠ 0 → gfLog a ≤ 254 ∧ gfExp (gfLog a) = a

/-! ### Reed–Solomon -/

/-- 42_reed_solomon.md R182: RSGEN n, n ≠ 0, writes the n + 1 coefficients to SB[0..n] and n + 1 to RESULT, sets
DONE, and changes nothing else. -/
def Obligations.RsgenWritesTheGenerator : Prop :=
  ∀ (s : State) (n : Byte), n ≠ 0 →
    ∃ t, exec (.rsgen n) s = .next t ∧ OnlyCsrsAndBuffersDiffer s t ∧
      t.store.csr = { s.store.csr with done := true, result := BitVec.ofNat 32 (n.toNat + 1) } ∧
      (∀ j ≤ n.toNat, t.store.sb j = (genPoly n.toNat).getD j 0) ∧
      SameBytesOutside (fun a => 0x1000 ≤ a ∧ a ≤ 0x1000 + n.toNat) s.store t.store

/-- 42_reed_solomon.md R181: the generator of degree n has n + 1 coefficients, is monic, and has the roots α^0 …
α^(n−1). -/
def Obligations.GeneratorIsMonicWithItsRoots : Prop :=
  ∀ n, 1 ≤ n → n ≤ 255 →
    (genPoly n).length = n + 1 ∧ (genPoly n).headD 0 = 1 ∧
      ∀ i < n, polyEval (genPoly n) (alphaPow i) = 0

/-- 42_reed_solomon.md R184: RSENC n, k in range writes the n EC codewords of CW[SRC..SRC+k−1], as they stood at
launch, to CW[DST..DST+n−1] and n to RESULT, sets DONE, and changes nothing else (SB included). -/
def Obligations.RsencWritesTheEcCodewords : Prop :=
  ∀ (s : State) (n k : Byte),
    n.toNat ≠ 0 → k.toNat ≠ 0 → n.toNat + k.toNat ≤ 255 →
    s.snap.csr.src.toNat + k.toNat ≤ 8192 → s.snap.csr.dst.toNat + n.toNat ≤ 8192 →
      ∃ t, exec (.rsenc n k) s = .next t ∧ OnlyCsrsAndBuffersDiffer s t ∧
        t.store.csr = { s.store.csr with done := true, result := BitVec.ofNat 32 n.toNat } ∧
        (∀ j < n.toNat, t.store.cw (s.snap.csr.dst.toNat + j) =
          (rsRem (s.snap.cwList s.snap.csr.src.toNat k.toNat) n.toNat).getD j 0) ∧
        SameBytesOutside
          (fun a => 0x2000 + s.snap.csr.dst.toNat ≤ a ∧ a < 0x2000 + s.snap.csr.dst.toNat + n.toNat)
          s.store t.store

/-- 42_reed_solomon.md R185, R186: RSSYN n, L in range writes S_i = R(α^i) to SB[i] for i < n and the number of
nonzero ones to RESULT, sets DONE, and changes nothing else. -/
def Obligations.RssynWritesTheSyndromes : Prop :=
  ∀ (s : State) (n l : Byte),
    n.toNat ≠ 0 → l.toNat ≠ 0 → s.snap.csr.src.toNat + l.toNat ≤ 8192 →
      ∃ t, exec (.rssyn n l) s = .next t ∧ OnlyCsrsAndBuffersDiffer s t ∧
        (∀ i < n.toNat, t.store.sb i =
          polyEval (s.snap.cwList s.snap.csr.src.toNat l.toNat) (alphaPow i)) ∧
        t.store.csr =
          { s.store.csr with
            done := true
            result := BitVec.ofNat 32 ((List.range n.toNat).countP fun i => t.store.sb i ≠ 0) } ∧
        SameBytesOutside (fun a => 0x1000 ≤ a ∧ a < 0x1000 + n.toNat) s.store t.store

/-- 42_reed_solomon.md R191: a data block followed by its EC codewords has all syndromes 0. -/
def Obligations.EncodedBlockHasZeroSyndromes : Prop :=
  ∀ (data : List Byte) (n : Nat), 1 ≤ data.length → 1 ≤ n → n + data.length ≤ 255 →
    syndromes (data ++ rsRem data n) n = List.replicate n 0

/-- 42_reed_solomon.md R190, 70_reset_and_hazards.md R331: ECCBLK on a legal layout writes the final sequence of
CW[0..D−1] to CW[4096..4096+T−1] and T to RESULT, whatever ARG0 and ARG1 hold, sets DONE, and changes nothing else.
-/
def Obligations.EccblkWritesTheFinalSequence : Prop :=
  ∀ s : State, s.snap.layoutArg.Legal →
    ∃ t, exec .eccblk s = .next t ∧ OnlyCsrsAndBuffersDiffer s t ∧
      t.store.csr =
        { s.store.csr with done := true, result := BitVec.ofNat 32 s.snap.layoutArg.total } ∧
      (∀ i < s.snap.layoutArg.total, t.store.cw (4096 + i) =
        (encodeBlocks s.snap.layoutArg (s.snap.cwList 0 s.snap.layoutArg.dataTotal)).getD i 0) ∧
      SameBytesOutside (fun a => 0x3000 ≤ a ∧ a < 0x3000 + s.snap.layoutArg.total) s.store t.store

/-- 42_reed_solomon.md R187–R189: where each codeword of the final sequence of a legal layout stands: data column j
< K1 takes codeword j of every block in block order; columns K1 … K2 − 1 those of group 2 alone; then EC column j
takes EC codeword j of every block. -/
def Obligations.InterleavePositions : Prop :=
  ∀ (y : Layout) (data : List Byte), y.Legal → data.length = y.dataTotal →
    (encodeBlocks y data).length = y.total ∧
      (∀ j < y.k1, ∀ b < y.b1 + y.b2,
        (encodeBlocks y data)[j * (y.b1 + y.b2) + b]? = data[blockStart y b + j]?) ∧
      (∀ j, y.k1 ≤ j → j < y.k2 → ∀ b, y.b1 ≤ b → b < y.b1 + y.b2 →
        (encodeBlocks y data)[y.k1 * (y.b1 + y.b2) + (j - y.k1) * y.b2 + (b - y.b1)]? =
          data[blockStart y b + j]?) ∧
      ∀ j < y.n, ∀ b < y.b1 + y.b2,
        (encodeBlocks y data)[y.dataTotal + j * (y.b1 + y.b2) + b]? =
          (rsRem (blockData y data b) y.n)[j]?

/-! ### The matrix -/

/-- 43_matrix.md R211: MXINIT on a legal version fills the N × N square with the modules of steps 1–7, latches the
version, and writes DM(V) to DMCOUNT and RESULT; DONE is set and nothing else changes. -/
def Obligations.MxinitBuildsTheMatrix : Prop :=
  ∀ s : State, 1 ≤ s.snap.csr.version.toNat → s.snap.csr.version.toNat ≤ 40 →
    ∃ t, exec .mxinit s = .next t ∧
      t = { s with
        engine := .idle
        store := { s.store with
          csr := { s.store.csr with
            done := true
            dmcount := BitVec.ofNat 15 (dataModules s.snap.csr.version.toNat)
            result := BitVec.ofNat 32 (dataModules s.snap.csr.version.toNat) }
          plane := t.store.plane
          mxvalid := true
          mxver := s.snap.csr.version } } ∧
      t.store.plane.isSquare (17 + 4 * s.snap.csr.version.toNat) ∧
      ∀ r < 17 + 4 * s.snap.csr.version.toNat, ∀ c < 17 + 4 * s.snap.csr.version.toNat,
        t.store.plane.module r c = initModule s.snap.csr.version.toNat r c

/-- 43_matrix.md R221: for every version the function modules are exactly those steps 2–7 write. -/
def Obligations.FunctionModulesAreTheWrittenOnes : Prop :=
  ∀ v, 1 ≤ v → v ≤ 40 → ∀ r < 17 + 4 * v, ∀ c < 17 + 4 * v,
    (isFunc v r c = true ↔ (functionSteps v r c).isSome = true)

/-- 43_matrix.md R212–R220: what MXINIT builds, pattern by pattern, for every version: finders, separators,
alignment patterns, timing (where it crosses an alignment pattern too), the dark module, reserved modules 0 and data
modules 0. -/
def Obligations.StructuralPatterns : Prop :=
  ∀ v, 1 ≤ v → v ≤ 40 →
    (∀ r0 c0, (r0, c0) ∈ [(0, 0), (0, 10 + 4 * v), (10 + 4 * v, 0)] → ∀ dr ≤ 6, ∀ dc ≤ 6,
      initModule v (r0 + dr) (c0 + dc) = decide (max (absDiff dr 3) (absDiff dc 3) ≠ 2)) ∧
    (∀ i ≤ 7,
      initModule v 7 i = false ∧ initModule v i 7 = false ∧
        initModule v 7 (9 + 4 * v + i) = false ∧ initModule v i (9 + 4 * v) = false ∧
        initModule v (9 + 4 * v) i = false ∧ initModule v (9 + 4 * v + i) 7 = false) ∧
    (∀ k ∈ alignCentres v, ∀ dr ≤ 4, ∀ dc ≤ 4,
      initModule v (k.1 + dr - 2) (k.2 + dc - 2) = decide (max (absDiff dr 2) (absDiff dc 2) ≠ 1)) ∧
    (∀ i, 8 ≤ i → i ≤ 8 + 4 * v →
      initModule v 6 i = decide (i % 2 = 0) ∧ initModule v i 6 = decide (i % 2 = 0)) ∧
    initModule v (4 * v + 9) 8 = true ∧
    (∀ r c, isFormatModule v r c = true ∨ isVersionModule v r c = true → initModule v r c = false) ∧
    ∀ r < 17 + 4 * v, ∀ c < 17 + 4 * v, isFunc v r c = false → initModule v r c = false

/-- 43_matrix.md R222: the number of data modules of every version, in closed form. -/
def Obligations.DataModuleCountClosedForm : Prop :=
  ∀ v, 1 ≤ v → v ≤ 40 →
    dataModules v + (if v ≥ 2 then (25 * (v / 7 + 2) - 10) * (v / 7 + 2) - 55 else 0) +
      (if v ≥ 7 then 36 else 0) = (16 * v + 128) * v + 64

/-- 43_matrix.md R223: the zig-zag order visits every data module once and no other module, has DM(V) entries, and
goes through the column pairs from the right with column 6 skipped, even pairs upward and odd ones downward, the
right column of a pair first. -/
def Obligations.ZigzagVisitsEachDataModuleOnce : Prop :=
  ∀ v, 1 ≤ v → v ≤ 40 →
    (zigzag v).Nodup ∧ (zigzag v).length = dataModules v ∧
      (zigzag v).Pairwise (VisitedBefore v) ∧
      ∀ r c, (r, c) ∈ zigzag v ↔ r < 17 + 4 * v ∧ c < 17 + 4 * v ∧ isFunc v r c = false

/-- 43_matrix.md R224, R225: MXPLACE with MXVALID = 1, a range inside CW and T = DM div 8 puts bit t of the stream
(most significant bit of each codeword first) into the t-th module of the zig-zag for t < 8T, 0 into the modules
left over and their number into RESULT; DONE is set and nothing else changes, no other module included. The plane is
the square of the latched version, as the invariant says. -/
def Obligations.MxplacePlacesTheBits : Prop :=
  ∀ s : State, s.snap.mxvalid = true → 1 ≤ s.snap.mxver.toNat → s.snap.mxver.toNat ≤ 40 →
    s.snap.csr.src.toNat + s.snap.csr.len.toNat ≤ 8192 →
    s.snap.csr.len.toNat = dataModules s.snap.mxver.toNat / 8 →
    s.store.plane.isSquare (17 + 4 * s.snap.mxver.toNat) →
      ∃ t, exec .mxplace s = .next t ∧ OnlyCsrsAndPlaneDiffer s t ∧
        t.store.csr =
          { s.store.csr with
            done := true
            result := BitVec.ofNat 32 (dataModules s.snap.mxver.toNat % 8) } ∧
        t.store.plane.isSquare (17 + 4 * s.snap.mxver.toNat) ∧
        (∀ i r c, (zigzag s.snap.mxver.toNat)[i]? = some (r, c) →
          t.store.plane.module r c =
            if i < 8 * s.snap.csr.len.toNat then
              (s.snap.cw (s.snap.csr.src.toNat + i / 8)).getLsbD (7 - i % 8)
            else false) ∧
        ∀ r c, (r, c) ∉ zigzag s.snap.mxver.toNat →
          t.store.plane.module r c = s.store.plane.module r c

/-! ### Masks and penalties -/

/-- 44_mask.md R251–R253: MXMASK k with k ≤ 7 and MXVALID = 1 inverts exactly the data modules where mask k is true,
keeps every other module, and writes k to RESULT; DONE is set and nothing else changes. -/
def Obligations.MxmaskInvertsTheMaskedDataModules : Prop :=
  ∀ (s : State) (k : Byte), k.toNat ≤ 7 → s.snap.mxvalid = true →
    ∃ t, exec (.mxmask k) s = .next t ∧ OnlyCsrsAndPlaneDiffer s t ∧
      t.store.csr = { s.store.csr with done := true, result := BitVec.ofNat 32 k.toNat } ∧
      t.store.plane.isSquare (17 + 4 * s.snap.mxver.toNat) ∧
      ∀ r < 17 + 4 * s.snap.mxver.toNat, ∀ c < 17 + 4 * s.snap.mxver.toNat,
        t.store.plane.module r c =
          (s.snap.plane.module r c ^^
            (!isFunc s.snap.mxver.toNat r c && maskTrue k.toNat r c))

/-- 44_mask.md R253, 70_reset_and_hazards.md R330: MXMASK k twice restores the matrix exactly. The plane is the
square of the latched version, as the invariant says. That a command run from IDLE reads the store is the model's
(log entry 6). -/
def Obligations.MxmaskTwiceRestoresTheMatrix : Prop :=
  ∀ (s : State) (k : Byte), s.engine = .idle → k.toNat ≤ 7 → s.store.mxvalid = true →
    s.store.plane.isSquare (17 + 4 * s.store.mxver.toNat) →
      ∃ t u, exec (.mxmask k) s = .next t ∧ exec (.mxmask k) t = .next u ∧
        u.store.plane = s.store.plane

/-- 44_mask.md R260: MXSCORE k with k ≤ 8 and MXVALID = 1 writes the scores of the matrix under mask k (8: no mask)
to PEN1–PEN4 and their sum to PENTOT and RESULT; DONE is set and nothing else changes. What the scores are, in
numbers, says `PenaltyRulesInNumbers`. -/
def Obligations.MxscoreWritesTheScores : Prop :=
  ∀ (s : State) (k : Byte), k.toNat ≤ 8 → s.snap.mxvalid = true →
    ∃ (t : State) (x : Plane) (n : Nat), exec (.mxscore k) s = .next t ∧ OnlyCsrsDiffer s t ∧
      n = 17 + 4 * s.snap.mxver.toNat ∧
      x = square n (fun r c =>
        s.snap.plane.module r c ^^
          (decide (k.toNat ≤ 7) && !isFunc s.snap.mxver.toNat r c && maskBit k.toNat r c)) ∧
      t.store.csr =
        { s.store.csr with
          done := true
          pen1 := BitVec.ofNat 32 (pen1 n x)
          pen2 := BitVec.ofNat 32 (pen2 n x)
          pen3 := BitVec.ofNat 32 (pen3 n x)
          pen4 := BitVec.ofNat 32 (pen4 n x)
          pentot := BitVec.ofNat 32 (pen1 n x + pen2 n x + pen3 n x + pen4 n x)
          result := BitVec.ofNat 32 (pen1 n x + pen2 n x + pen3 n x + pen4 n x) }

/-- 44_mask.md R261, R262: MXSELECT with MXVALID = 1 selects the lowest of the masks with the least total, writes
the eight totals, the winner's scores and its index, and leaves the matrix under the winner; DONE is set and nothing
else changes. -/
def Obligations.MxselectAppliesTheLowestMinimum : Prop :=
  ∀ s : State, s.snap.mxvalid = true →
    ∃ (t : State) (best : Nat) (x : Plane) (n : Nat), exec .mxselect s = .next t ∧ OnlyCsrsAndPlaneDiffer s t ∧
      n = 17 + 4 * s.snap.mxver.toNat ∧ x = masked s.snap.mxver.toNat s.snap.plane best ∧
      best ≤ 7 ∧ (∀ k ≤ 7, maskTotal s.snap best ≤ maskTotal s.snap k) ∧
      (∀ k < best, maskTotal s.snap best < maskTotal s.snap k) ∧
      t.store.plane = x ∧
      (∀ k : Fin 8, t.store.csr.scores[k] = BitVec.ofNat 32 (maskTotal s.snap k.val)) ∧
      t.store.csr =
        { s.store.csr with
          done := true
          scores := t.store.csr.scores
          pen1 := BitVec.ofNat 32 (pen1 n x)
          pen2 := BitVec.ofNat 32 (pen2 n x)
          pen3 := BitVec.ofNat 32 (pen3 n x)
          pen4 := BitVec.ofNat 32 (pen4 n x)
          pentot := BitVec.ofNat 32 (maskTotal s.snap best)
          result := BitVec.ofNat 32 best }

/-- 44_mask.md R255: the run lengths of a line cut it into maximal runs: each is at least 1, the runs in order are
the line, and neighbouring runs differ in colour. -/
def Obligations.RunLengthsAreTheMaximalRuns : Prop :=
  ∀ s : List Bool, ∃ colours : List Bool,
    colours.length = (runLengths s).length ∧ (∀ n ∈ runLengths s, 1 ≤ n) ∧
      (List.zipWith List.replicate (runLengths s) colours).flatten = s ∧
      ∀ i, i + 1 < colours.length → colours[i]? ≠ colours[i + 1]?

/-- 44_mask.md R254–R258: the four penalty rules of every n × n matrix, in numbers over its modules: L − 2 for each
maximal run of L ≥ 5 in the 2n lines, 3 for each uniform 2 × 2 window, 40 for each finder-like start in the 2n lines,
10 for each whole 5 % step of |20·dark − 10·n²| div n². Rules 3 and 4 under revision 1's policies (log entry 8). -/
def Obligations.PenaltyRulesInNumbers : Prop :=
  ∀ (n : Nat) (x : Plane), x.isSquare n →
    pen1 n x = overLines n x (runScore n) ∧
      pen2 n x = 3 * (uniformWindows n x).card ∧
      pen3 n x = overLines n x (finderScore n) ∧
      pen4 n x = 10 * ((20 * ((darkModules n x).card : Int) - 10 * (n * n : Int)).natAbs / (n * n))

/-- 44_mask.md R259: the bounds of the four scores for every matrix of at most 177 rows, so that no register
overflows. -/
def Obligations.PenaltyBounds : Prop :=
  ∀ (n : Nat) (x : Plane), n ≤ 177 → x.isSquare n →
    pen1 n x ≤ 61950 ∧ pen2 n x ≤ 92928 ∧ pen3 n x ≤ 2364720 ∧ pen4 n x ≤ 100

/-! ### The whole machine -/

/-- 44_mask.md R253 (QRP §8), 43_matrix.md R225: in a state the invariant admits, no command but MXINIT changes a
function module. -/
def Obligations.OnlyMxinitChangesFunctionModules : Prop :=
  ∀ (i : Instr) (s t : State), Inv s → i ≠ .mxinit → exec i s = .next t → s.store.mxvalid = true →
    ∀ r < 17 + 4 * s.store.mxver.toNat, ∀ c < 17 + 4 * s.store.mxver.toNat,
      isFunc s.store.mxver.toNat r c = true → t.store.plane.module r c = s.store.plane.module r c

/-- 10_state.md R58: a step changes the matrix latch only by clearing it (a reset) or by completing an MXINIT, which
sets MXVALID and latches the version. -/
def Obligations.LatchChangesByMxinitOrReset : Prop :=
  ∀ s t : State, step s = .next t →
    (t.store.mxvalid = s.store.mxvalid ∧ t.store.mxver = s.store.mxver) ∨
      (t.store.mxvalid = false ∧ t.store.mxver = 0 ∧ t.store.csr = Csrs.reset) ∨
      ∃ w snap, s.engine = .busy w snap ∧ decode w = .ok .mxinit ∧
        t.store.mxvalid = true ∧ t.store.mxver = snap.csr.version

/-- 10_state.md R47, R49, R53: RESULT, the PEN registers, the SCORE registers and DMCOUNT change only when a command
completes without an error or a reset clears them. -/
def Obligations.ResultsChangeOnlyBySuccessOrReset : Prop :=
  ∀ s t : State, step s = .next t →
    (t.store.csr.result = s.store.csr.result ∧ t.store.csr.dmcount = s.store.csr.dmcount ∧
        t.store.csr.pen1 = s.store.csr.pen1 ∧ t.store.csr.pen2 = s.store.csr.pen2 ∧
        t.store.csr.pen3 = s.store.csr.pen3 ∧ t.store.csr.pen4 = s.store.csr.pen4 ∧
        t.store.csr.pentot = s.store.csr.pentot ∧ t.store.csr.scores = s.store.csr.scores) ∨
      t.store.csr = Csrs.reset ∨
      ∃ w snap ws, s.engine = .busy w snap ∧ runWord w snap = .ok ws ∧ t.engine = .idle ∧
        t.store.csr.done = true
end

