-- ==== Sys2Proof/Laws/State.lean ====
section
/-!
SUPPORT. What each update of the state leaves in each field, one lemma per field, so that no later proof unfolds a
record update.
-/

namespace Sys2Proof.Machine

/-! ### A write to STATUS -/

@[simp] theorem Csrs.writeStatus_doneIe (c : Csrs) (v : Word) :
    (c.writeStatus v).doneIe = c.doneIe := rfl
@[simp] theorem Csrs.writeStatus_errIe (c : Csrs) (v : Word) :
    (c.writeStatus v).errIe = c.errIe := rfl
@[simp] theorem Csrs.writeStatus_done (c : Csrs) (v : Word) :
    (c.writeStatus v).done = (c.done && !v.getLsbD 1) := rfl
@[simp] theorem Csrs.writeStatus_err (c : Csrs) (v : Word) :
    (c.writeStatus v).err = (c.err && !v.getLsbD 2) := rfl
@[simp] theorem Csrs.writeStatus_errcode (c : Csrs) (v : Word) :
    (c.writeStatus v).errcode = (if v.getLsbD 2 then 0 else c.errcode) := rfl
@[simp] theorem Csrs.writeStatus_version (c : Csrs) (v : Word) :
    (c.writeStatus v).version = c.version := rfl
@[simp] theorem Csrs.writeStatus_b1 (c : Csrs) (v : Word) :
    (c.writeStatus v).b1 = c.b1 := rfl
@[simp] theorem Csrs.writeStatus_k1 (c : Csrs) (v : Word) :
    (c.writeStatus v).k1 = c.k1 := rfl
@[simp] theorem Csrs.writeStatus_b2 (c : Csrs) (v : Word) :
    (c.writeStatus v).b2 = c.b2 := rfl
@[simp] theorem Csrs.writeStatus_k2 (c : Csrs) (v : Word) :
    (c.writeStatus v).k2 = c.k2 := rfl
@[simp] theorem Csrs.writeStatus_nec (c : Csrs) (v : Word) :
    (c.writeStatus v).nec = c.nec := rfl
@[simp] theorem Csrs.writeStatus_src (c : Csrs) (v : Word) :
    (c.writeStatus v).src = c.src := rfl
@[simp] theorem Csrs.writeStatus_dst (c : Csrs) (v : Word) :
    (c.writeStatus v).dst = c.dst := rfl
@[simp] theorem Csrs.writeStatus_len (c : Csrs) (v : Word) :
    (c.writeStatus v).len = c.len := rfl
@[simp] theorem Csrs.writeStatus_result (c : Csrs) (v : Word) :
    (c.writeStatus v).result = c.result := rfl
@[simp] theorem Csrs.writeStatus_dmcount (c : Csrs) (v : Word) :
    (c.writeStatus v).dmcount = c.dmcount := rfl
@[simp] theorem Csrs.writeStatus_pen1 (c : Csrs) (v : Word) :
    (c.writeStatus v).pen1 = c.pen1 := rfl
@[simp] theorem Csrs.writeStatus_pen2 (c : Csrs) (v : Word) :
    (c.writeStatus v).pen2 = c.pen2 := rfl
@[simp] theorem Csrs.writeStatus_pen3 (c : Csrs) (v : Word) :
    (c.writeStatus v).pen3 = c.pen3 := rfl
@[simp] theorem Csrs.writeStatus_pen4 (c : Csrs) (v : Word) :
    (c.writeStatus v).pen4 = c.pen4 := rfl
@[simp] theorem Csrs.writeStatus_pentot (c : Csrs) (v : Word) :
    (c.writeStatus v).pentot = c.pentot := rfl
@[simp] theorem Csrs.writeStatus_row (c : Csrs) (v : Word) :
    (c.writeStatus v).row = c.row := rfl
@[simp] theorem Csrs.writeStatus_col (c : Csrs) (v : Word) :
    (c.writeStatus v).col = c.col := rfl
@[simp] theorem Csrs.writeStatus_scores (c : Csrs) (v : Word) :
    (c.writeStatus v).scores = c.scores := rfl

/-! ### A write to CTRL's enables -/

@[simp] theorem Csrs.writeEnables_doneIe (c : Csrs) (v : Word) :
    (c.writeEnables v).doneIe = v.getLsbD 0 := rfl
@[simp] theorem Csrs.writeEnables_errIe (c : Csrs) (v : Word) :
    (c.writeEnables v).errIe = v.getLsbD 1 := rfl
@[simp] theorem Csrs.writeEnables_done (c : Csrs) (v : Word) :
    (c.writeEnables v).done = c.done := rfl
@[simp] theorem Csrs.writeEnables_err (c : Csrs) (v : Word) :
    (c.writeEnables v).err = c.err := rfl
@[simp] theorem Csrs.writeEnables_errcode (c : Csrs) (v : Word) :
    (c.writeEnables v).errcode = c.errcode := rfl
@[simp] theorem Csrs.writeEnables_version (c : Csrs) (v : Word) :
    (c.writeEnables v).version = c.version := rfl
@[simp] theorem Csrs.writeEnables_b1 (c : Csrs) (v : Word) :
    (c.writeEnables v).b1 = c.b1 := rfl
@[simp] theorem Csrs.writeEnables_k1 (c : Csrs) (v : Word) :
    (c.writeEnables v).k1 = c.k1 := rfl
@[simp] theorem Csrs.writeEnables_b2 (c : Csrs) (v : Word) :
    (c.writeEnables v).b2 = c.b2 := rfl
@[simp] theorem Csrs.writeEnables_k2 (c : Csrs) (v : Word) :
    (c.writeEnables v).k2 = c.k2 := rfl
@[simp] theorem Csrs.writeEnables_nec (c : Csrs) (v : Word) :
    (c.writeEnables v).nec = c.nec := rfl
@[simp] theorem Csrs.writeEnables_src (c : Csrs) (v : Word) :
    (c.writeEnables v).src = c.src := rfl
@[simp] theorem Csrs.writeEnables_dst (c : Csrs) (v : Word) :
    (c.writeEnables v).dst = c.dst := rfl
@[simp] theorem Csrs.writeEnables_len (c : Csrs) (v : Word) :
    (c.writeEnables v).len = c.len := rfl
@[simp] theorem Csrs.writeEnables_result (c : Csrs) (v : Word) :
    (c.writeEnables v).result = c.result := rfl
@[simp] theorem Csrs.writeEnables_dmcount (c : Csrs) (v : Word) :
    (c.writeEnables v).dmcount = c.dmcount := rfl
@[simp] theorem Csrs.writeEnables_pen1 (c : Csrs) (v : Word) :
    (c.writeEnables v).pen1 = c.pen1 := rfl
@[simp] theorem Csrs.writeEnables_pen2 (c : Csrs) (v : Word) :
    (c.writeEnables v).pen2 = c.pen2 := rfl
@[simp] theorem Csrs.writeEnables_pen3 (c : Csrs) (v : Word) :
    (c.writeEnables v).pen3 = c.pen3 := rfl
@[simp] theorem Csrs.writeEnables_pen4 (c : Csrs) (v : Word) :
    (c.writeEnables v).pen4 = c.pen4 := rfl
@[simp] theorem Csrs.writeEnables_pentot (c : Csrs) (v : Word) :
    (c.writeEnables v).pentot = c.pentot := rfl
@[simp] theorem Csrs.writeEnables_row (c : Csrs) (v : Word) :
    (c.writeEnables v).row = c.row := rfl
@[simp] theorem Csrs.writeEnables_col (c : Csrs) (v : Word) :
    (c.writeEnables v).col = c.col := rfl
@[simp] theorem Csrs.writeEnables_scores (c : Csrs) (v : Word) :
    (c.writeEnables v).scores = c.scores := rfl

/-! ### The flags at launch and completion -/

@[simp] theorem Csrs.clearFlags_doneIe (c : Csrs) :
    (c.clearFlags).doneIe = c.doneIe := rfl
@[simp] theorem Csrs.clearFlags_errIe (c : Csrs) :
    (c.clearFlags).errIe = c.errIe := rfl
@[simp] theorem Csrs.clearFlags_done (c : Csrs) :
    (c.clearFlags).done = false := rfl
@[simp] theorem Csrs.clearFlags_err (c : Csrs) :
    (c.clearFlags).err = false := rfl
@[simp] theorem Csrs.clearFlags_errcode (c : Csrs) :
    (c.clearFlags).errcode = 0 := rfl
@[simp] theorem Csrs.clearFlags_version (c : Csrs) :
    (c.clearFlags).version = c.version := rfl
@[simp] theorem Csrs.clearFlags_b1 (c : Csrs) :
    (c.clearFlags).b1 = c.b1 := rfl
@[simp] theorem Csrs.clearFlags_k1 (c : Csrs) :
    (c.clearFlags).k1 = c.k1 := rfl
@[simp] theorem Csrs.clearFlags_b2 (c : Csrs) :
    (c.clearFlags).b2 = c.b2 := rfl
@[simp] theorem Csrs.clearFlags_k2 (c : Csrs) :
    (c.clearFlags).k2 = c.k2 := rfl
@[simp] theorem Csrs.clearFlags_nec (c : Csrs) :
    (c.clearFlags).nec = c.nec := rfl
@[simp] theorem Csrs.clearFlags_src (c : Csrs) :
    (c.clearFlags).src = c.src := rfl
@[simp] theorem Csrs.clearFlags_dst (c : Csrs) :
    (c.clearFlags).dst = c.dst := rfl
@[simp] theorem Csrs.clearFlags_len (c : Csrs) :
    (c.clearFlags).len = c.len := rfl
@[simp] theorem Csrs.clearFlags_result (c : Csrs) :
    (c.clearFlags).result = c.result := rfl
@[simp] theorem Csrs.clearFlags_dmcount (c : Csrs) :
    (c.clearFlags).dmcount = c.dmcount := rfl
@[simp] theorem Csrs.clearFlags_pen1 (c : Csrs) :
    (c.clearFlags).pen1 = c.pen1 := rfl
@[simp] theorem Csrs.clearFlags_pen2 (c : Csrs) :
    (c.clearFlags).pen2 = c.pen2 := rfl
@[simp] theorem Csrs.clearFlags_pen3 (c : Csrs) :
    (c.clearFlags).pen3 = c.pen3 := rfl
@[simp] theorem Csrs.clearFlags_pen4 (c : Csrs) :
    (c.clearFlags).pen4 = c.pen4 := rfl
@[simp] theorem Csrs.clearFlags_pentot (c : Csrs) :
    (c.clearFlags).pentot = c.pentot := rfl
@[simp] theorem Csrs.clearFlags_row (c : Csrs) :
    (c.clearFlags).row = c.row := rfl
@[simp] theorem Csrs.clearFlags_col (c : Csrs) :
    (c.clearFlags).col = c.col := rfl
@[simp] theorem Csrs.clearFlags_scores (c : Csrs) :
    (c.clearFlags).scores = c.scores := rfl

/-! ### Successful completion -/

@[simp] theorem Csrs.setDone_doneIe (c : Csrs) :
    (c.setDone).doneIe = c.doneIe := rfl
@[simp] theorem Csrs.setDone_errIe (c : Csrs) :
    (c.setDone).errIe = c.errIe := rfl
@[simp] theorem Csrs.setDone_done (c : Csrs) :
    (c.setDone).done = true := rfl
@[simp] theorem Csrs.setDone_err (c : Csrs) :
    (c.setDone).err = c.err := rfl
@[simp] theorem Csrs.setDone_errcode (c : Csrs) :
    (c.setDone).errcode = c.errcode := rfl
@[simp] theorem Csrs.setDone_version (c : Csrs) :
    (c.setDone).version = c.version := rfl
@[simp] theorem Csrs.setDone_b1 (c : Csrs) :
    (c.setDone).b1 = c.b1 := rfl
@[simp] theorem Csrs.setDone_k1 (c : Csrs) :
    (c.setDone).k1 = c.k1 := rfl
@[simp] theorem Csrs.setDone_b2 (c : Csrs) :
    (c.setDone).b2 = c.b2 := rfl
@[simp] theorem Csrs.setDone_k2 (c : Csrs) :
    (c.setDone).k2 = c.k2 := rfl
@[simp] theorem Csrs.setDone_nec (c : Csrs) :
    (c.setDone).nec = c.nec := rfl
@[simp] theorem Csrs.setDone_src (c : Csrs) :
    (c.setDone).src = c.src := rfl
@[simp] theorem Csrs.setDone_dst (c : Csrs) :
    (c.setDone).dst = c.dst := rfl
@[simp] theorem Csrs.setDone_len (c : Csrs) :
    (c.setDone).len = c.len := rfl
@[simp] theorem Csrs.setDone_result (c : Csrs) :
    (c.setDone).result = c.result := rfl
@[simp] theorem Csrs.setDone_dmcount (c : Csrs) :
    (c.setDone).dmcount = c.dmcount := rfl
@[simp] theorem Csrs.setDone_pen1 (c : Csrs) :
    (c.setDone).pen1 = c.pen1 := rfl
@[simp] theorem Csrs.setDone_pen2 (c : Csrs) :
    (c.setDone).pen2 = c.pen2 := rfl
@[simp] theorem Csrs.setDone_pen3 (c : Csrs) :
    (c.setDone).pen3 = c.pen3 := rfl
@[simp] theorem Csrs.setDone_pen4 (c : Csrs) :
    (c.setDone).pen4 = c.pen4 := rfl
@[simp] theorem Csrs.setDone_pentot (c : Csrs) :
    (c.setDone).pentot = c.pentot := rfl
@[simp] theorem Csrs.setDone_row (c : Csrs) :
    (c.setDone).row = c.row := rfl
@[simp] theorem Csrs.setDone_col (c : Csrs) :
    (c.setDone).col = c.col := rfl
@[simp] theorem Csrs.setDone_scores (c : Csrs) :
    (c.setDone).scores = c.scores := rfl

/-! ### Failed completion -/

@[simp] theorem Csrs.setError_doneIe (c : Csrs) (e : ErrCode) :
    (c.setError e).doneIe = c.doneIe := rfl
@[simp] theorem Csrs.setError_errIe (c : Csrs) (e : ErrCode) :
    (c.setError e).errIe = c.errIe := rfl
@[simp] theorem Csrs.setError_done (c : Csrs) (e : ErrCode) :
    (c.setError e).done = true := rfl
@[simp] theorem Csrs.setError_err (c : Csrs) (e : ErrCode) :
    (c.setError e).err = true := rfl
@[simp] theorem Csrs.setError_errcode (c : Csrs) (e : ErrCode) :
    (c.setError e).errcode = e.code := rfl
@[simp] theorem Csrs.setError_version (c : Csrs) (e : ErrCode) :
    (c.setError e).version = c.version := rfl
@[simp] theorem Csrs.setError_b1 (c : Csrs) (e : ErrCode) :
    (c.setError e).b1 = c.b1 := rfl
@[simp] theorem Csrs.setError_k1 (c : Csrs) (e : ErrCode) :
    (c.setError e).k1 = c.k1 := rfl
@[simp] theorem Csrs.setError_b2 (c : Csrs) (e : ErrCode) :
    (c.setError e).b2 = c.b2 := rfl
@[simp] theorem Csrs.setError_k2 (c : Csrs) (e : ErrCode) :
    (c.setError e).k2 = c.k2 := rfl
@[simp] theorem Csrs.setError_nec (c : Csrs) (e : ErrCode) :
    (c.setError e).nec = c.nec := rfl
@[simp] theorem Csrs.setError_src (c : Csrs) (e : ErrCode) :
    (c.setError e).src = c.src := rfl
@[simp] theorem Csrs.setError_dst (c : Csrs) (e : ErrCode) :
    (c.setError e).dst = c.dst := rfl
@[simp] theorem Csrs.setError_len (c : Csrs) (e : ErrCode) :
    (c.setError e).len = c.len := rfl
@[simp] theorem Csrs.setError_result (c : Csrs) (e : ErrCode) :
    (c.setError e).result = c.result := rfl
@[simp] theorem Csrs.setError_dmcount (c : Csrs) (e : ErrCode) :
    (c.setError e).dmcount = c.dmcount := rfl
@[simp] theorem Csrs.setError_pen1 (c : Csrs) (e : ErrCode) :
    (c.setError e).pen1 = c.pen1 := rfl
@[simp] theorem Csrs.setError_pen2 (c : Csrs) (e : ErrCode) :
    (c.setError e).pen2 = c.pen2 := rfl
@[simp] theorem Csrs.setError_pen3 (c : Csrs) (e : ErrCode) :
    (c.setError e).pen3 = c.pen3 := rfl
@[simp] theorem Csrs.setError_pen4 (c : Csrs) (e : ErrCode) :
    (c.setError e).pen4 = c.pen4 := rfl
@[simp] theorem Csrs.setError_pentot (c : Csrs) (e : ErrCode) :
    (c.setError e).pentot = c.pentot := rfl
@[simp] theorem Csrs.setError_row (c : Csrs) (e : ErrCode) :
    (c.setError e).row = c.row := rfl
@[simp] theorem Csrs.setError_col (c : Csrs) (e : ErrCode) :
    (c.setError e).col = c.col := rfl
@[simp] theorem Csrs.setError_scores (c : Csrs) (e : ErrCode) :
    (c.setError e).scores = c.scores := rfl

/-! ### A command's writes to the CSRs -/

@[simp] theorem Csrs.apply_doneIe (c : Csrs) (w : Writes) :
    (c.apply w).doneIe = c.doneIe := rfl
@[simp] theorem Csrs.apply_errIe (c : Csrs) (w : Writes) :
    (c.apply w).errIe = c.errIe := rfl
@[simp] theorem Csrs.apply_done (c : Csrs) (w : Writes) :
    (c.apply w).done = c.done := rfl
@[simp] theorem Csrs.apply_err (c : Csrs) (w : Writes) :
    (c.apply w).err = c.err := rfl
@[simp] theorem Csrs.apply_errcode (c : Csrs) (w : Writes) :
    (c.apply w).errcode = c.errcode := rfl
@[simp] theorem Csrs.apply_version (c : Csrs) (w : Writes) :
    (c.apply w).version = c.version := rfl
@[simp] theorem Csrs.apply_b1 (c : Csrs) (w : Writes) :
    (c.apply w).b1 = c.b1 := rfl
@[simp] theorem Csrs.apply_k1 (c : Csrs) (w : Writes) :
    (c.apply w).k1 = c.k1 := rfl
@[simp] theorem Csrs.apply_b2 (c : Csrs) (w : Writes) :
    (c.apply w).b2 = c.b2 := rfl
@[simp] theorem Csrs.apply_k2 (c : Csrs) (w : Writes) :
    (c.apply w).k2 = c.k2 := rfl
@[simp] theorem Csrs.apply_nec (c : Csrs) (w : Writes) :
    (c.apply w).nec = c.nec := rfl
@[simp] theorem Csrs.apply_src (c : Csrs) (w : Writes) :
    (c.apply w).src = c.src := rfl
@[simp] theorem Csrs.apply_dst (c : Csrs) (w : Writes) :
    (c.apply w).dst = c.dst := rfl
@[simp] theorem Csrs.apply_len (c : Csrs) (w : Writes) :
    (c.apply w).len = c.len := rfl
@[simp] theorem Csrs.apply_result (c : Csrs) (w : Writes) :
    (c.apply w).result = w.result.getD c.result := rfl
@[simp] theorem Csrs.apply_dmcount (c : Csrs) (w : Writes) :
    (c.apply w).dmcount = w.dmcount.getD c.dmcount := rfl
@[simp] theorem Csrs.apply_pen1 (c : Csrs) (w : Writes) :
    (c.apply w).pen1 = (w.penalty.map fun p => BitVec.ofNat 32 p.rule1).getD c.pen1 := rfl
@[simp] theorem Csrs.apply_pen2 (c : Csrs) (w : Writes) :
    (c.apply w).pen2 = (w.penalty.map fun p => BitVec.ofNat 32 p.rule2).getD c.pen2 := rfl
@[simp] theorem Csrs.apply_pen3 (c : Csrs) (w : Writes) :
    (c.apply w).pen3 = (w.penalty.map fun p => BitVec.ofNat 32 p.rule3).getD c.pen3 := rfl
@[simp] theorem Csrs.apply_pen4 (c : Csrs) (w : Writes) :
    (c.apply w).pen4 = (w.penalty.map fun p => BitVec.ofNat 32 p.rule4).getD c.pen4 := rfl
@[simp] theorem Csrs.apply_pentot (c : Csrs) (w : Writes) :
    (c.apply w).pentot = (w.penalty.map fun p => BitVec.ofNat 32 p.total).getD c.pentot := rfl
@[simp] theorem Csrs.apply_row (c : Csrs) (w : Writes) :
    (c.apply w).row = c.row := rfl
@[simp] theorem Csrs.apply_col (c : Csrs) (w : Writes) :
    (c.apply w).col = c.col := rfl
@[simp] theorem Csrs.apply_scores (c : Csrs) (w : Writes) :
    (c.apply w).scores = w.scores.getD c.scores := rfl

/-! ### A command's writes to the store -/

@[simp] theorem Store.apply_csr (st : Store) (w : Writes) : (st.apply w).csr = st.csr.apply w := rfl
@[simp] theorem Store.apply_mem (st : Store) (w : Writes) :
    (st.apply w).mem = st.mem.setBytes w.bytes := rfl
@[simp] theorem Store.apply_plane (st : Store) (w : Writes) :
    (st.apply w).plane = (w.whole.getD st.plane).setModules w.modules := rfl
@[simp] theorem Store.apply_mxvalid (st : Store) (w : Writes) :
    (st.apply w).mxvalid = (st.mxvalid || w.latch.isSome) := rfl
@[simp] theorem Store.apply_mxver (st : Store) (w : Writes) :
    (st.apply w).mxver = w.latch.getD st.mxver := rfl

/-! ### Launch -/

@[simp] theorem State.launch_store (s : State) (w : Word) :
    (s.launch w).store = { s.store with csr := s.store.csr.clearFlags } := rfl
@[simp] theorem State.launch_engine (s : State) (w : Word) :
    (s.launch w).engine = .busy w { s.store with csr := s.store.csr.clearFlags } := rfl
@[simp] theorem State.launch_agenda (s : State) (w : Word) : (s.launch w).agenda = s.agenda := rfl
@[simp] theorem State.launch_answers (s : State) (w : Word) : (s.launch w).answers = s.answers := rfl
@[simp] theorem State.launch_abandons (s : State) (w : Word) : (s.launch w).abandons = s.abandons := rfl

/-! ### Completion -/

@[simp] theorem State.succeed_store (s : State) (w : Writes) :
    (s.succeed w).store = { s.store.apply w with csr := (s.store.csr.apply w).setDone } := rfl
@[simp] theorem State.succeed_engine (s : State) (w : Writes) : (s.succeed w).engine = .idle := rfl
@[simp] theorem State.succeed_agenda (s : State) (w : Writes) : (s.succeed w).agenda = s.agenda := rfl
@[simp] theorem State.succeed_answers (s : State) (w : Writes) : (s.succeed w).answers = s.answers := rfl
@[simp] theorem State.succeed_abandons (s : State) (w : Writes) :
    (s.succeed w).abandons = s.abandons := rfl

@[simp] theorem State.failCommand_store (s : State) (e : ErrCode) :
    (s.failCommand e).store = { s.store with csr := s.store.csr.setError e } := rfl
@[simp] theorem State.failCommand_engine (s : State) (e : ErrCode) :
    (s.failCommand e).engine = .idle := rfl
@[simp] theorem State.failCommand_agenda (s : State) (e : ErrCode) :
    (s.failCommand e).agenda = s.agenda := rfl
@[simp] theorem State.failCommand_answers (s : State) (e : ErrCode) :
    (s.failCommand e).answers = s.answers := rfl
@[simp] theorem State.failCommand_abandons (s : State) (e : ErrCode) :
    (s.failCommand e).abandons = s.abandons := rfl

@[simp] theorem State.finish_ok (s : State) (w : Writes) : s.finish (.ok w) = s.succeed w := rfl
@[simp] theorem State.finish_err (s : State) (e : ErrCode) : s.finish (.err e) = s.failCommand e := rfl

/-! ### Resets -/

@[simp] theorem Store.resetCsrs_csr (st : Store) : st.resetCsrs.csr = Csrs.reset := rfl
@[simp] theorem Store.resetCsrs_mem (st : Store) : st.resetCsrs.mem = st.mem := rfl
@[simp] theorem Store.resetCsrs_plane (st : Store) : st.resetCsrs.plane = st.plane := rfl
@[simp] theorem Store.resetCsrs_mxvalid (st : Store) : st.resetCsrs.mxvalid = false := rfl
@[simp] theorem Store.resetCsrs_mxver (st : Store) : st.resetCsrs.mxver = 0 := rfl

@[simp] theorem State.powerOnReset_engine (s : State) : s.powerOnReset.engine = .idle := rfl
@[simp] theorem State.powerOnReset_csr (s : State) : s.powerOnReset.store.csr = Csrs.reset := rfl
@[simp] theorem State.powerOnReset_mxvalid (s : State) : s.powerOnReset.store.mxvalid = false := rfl
@[simp] theorem State.powerOnReset_mxver (s : State) : s.powerOnReset.store.mxver = 0 := rfl
@[simp] theorem State.powerOnReset_agenda (s : State) : s.powerOnReset.agenda = s.agenda := rfl
@[simp] theorem State.powerOnReset_answers (s : State) : s.powerOnReset.answers = s.answers := rfl

/-! ### The bus and the agenda -/

@[simp] theorem State.answer_store (s : State) (r : Answer) : (s.answer r).store = s.store := rfl
@[simp] theorem State.answer_engine (s : State) (r : Answer) : (s.answer r).engine = s.engine := rfl
@[simp] theorem State.answer_agenda (s : State) (r : Answer) : (s.answer r).agenda = s.agenda := rfl
@[simp] theorem State.answer_answers (s : State) (r : Answer) : (s.answer r).answers = r :: s.answers := rfl
@[simp] theorem State.answer_abandons (s : State) (r : Answer) : (s.answer r).abandons = s.abandons := rfl

@[simp] theorem State.schedule_store (s : State) (e : Event) : (s.schedule e).store = s.store := rfl
@[simp] theorem State.schedule_engine (s : State) (e : Event) : (s.schedule e).engine = s.engine := rfl
@[simp] theorem State.schedule_agenda (s : State) (e : Event) : (s.schedule e).agenda = e :: s.agenda := rfl

@[simp] theorem State.snap_idle (s : State) (h : s.engine = .idle) : s.snap = s.store := by
  simp [State.snap, h]
@[simp] theorem State.snap_busy (s : State) (w : Word) (snap : Store) (h : s.engine = .busy w snap) :
    s.snap = snap := by
  simp [State.snap, h]

end Sys2Proof.Machine
end

