-- ==== Sys2Proof/Laws/Memory.lean ====
section
/-!
SUPPORT. The buffers: a read after a write, what a write leaves alone, and the canonical form.
-/

namespace Sys2Proof.Machine

/-- A read after a write of one cell. -/
theorem cellAt_setCell (a a' : Nat) (b : Byte) (l : List Host.Cell) :
    cellAt a' (setCell a b l) = if a' = a then some b else cellAt a' l := by
  induction l with
  | nil => simp [setCell, cellAt, unlisted, eq_comm]
  | cons x rest ih =>
    obtain ⟨k, c⟩ := x
    by_cases h : a' = a
    · subst h
      simp only [setCell]
      split_ifs with h1 h2
      · simp [cellAt]
      · simp [cellAt]
      · simp [cellAt, ih, Ne.symm h2]
    · simp only [setCell]
      split_ifs with h1 h2
      · simp [cellAt, Ne.symm h]
      · subst h2
        simp [cellAt, Ne.symm h]
      · simp [cellAt, ih, h]

@[simp] theorem Memory.setByte_epoch (m : Memory) (a : Nat) (b : Byte) : (m.setByte a b).epoch = m.epoch := rfl

@[simp] theorem Memory.setBytes_nil (m : Memory) : m.setBytes [] = m := rfl

@[simp] theorem Memory.setBytes_cons (m : Memory) (p : Nat × Byte) (l : List (Nat × Byte)) :
    m.setBytes (p :: l) = (m.setByte p.1 p.2).setBytes l := rfl

@[simp] theorem Memory.setBytes_epoch (m : Memory) (l : List (Nat × Byte)) :
    (m.setBytes l).epoch = m.epoch := by
  induction l generalizing m with
  | nil => rfl
  | cons p l ih => simp [ih]

/-- A read after a write of one byte. -/
theorem Memory.byte_setByte (m : Memory) (a a' : Nat) (b : Byte) :
    (m.setByte a b).byte a' = if a' = a then b else m.byte a' := by
  unfold Memory.byte Memory.setByte
  simp only [cellAt_setCell]
  split_ifs with h <;> rfl

/-- A write of bytes leaves every other address alone. -/
theorem Memory.byte_setBytes_of_not_mem (m : Memory) (l : List (Nat × Byte)) (a : Nat)
    (h : ∀ p ∈ l, p.1 ≠ a) : (m.setBytes l).byte a = m.byte a := by
  induction l generalizing m with
  | nil => rfl
  | cons p l ih =>
    rw [Memory.setBytes_cons, ih _ fun q hq => h q (by simp [hq]), Memory.byte_setByte,
      if_neg fun e => h p (by simp) e.symm]

/-- A read of a written byte, when no two writes name one address. -/
theorem Memory.byte_setBytes_of_mem (m : Memory) (l : List (Nat × Byte)) (a : Nat) (b : Byte)
    (hn : (l.map Prod.fst).Nodup) (h : (a, b) ∈ l) : (m.setBytes l).byte a = b := by
  induction l generalizing m with
  | nil => simp at h
  | cons p l ih =>
    rw [Memory.setBytes_cons]
    simp only [List.map_cons, List.nodup_cons] at hn
    rcases List.mem_cons.mp h with rfl | h
    · rw [Memory.byte_setBytes_of_not_mem, Memory.byte_setByte, if_pos rfl]
      intro q hq e
      exact hn.1 (List.mem_map.mpr ⟨q, hq, e⟩)
    · exact ih _ hn.2 h

/-! ### Canonical form -/

theorem isBufferAddr_iff (a : Nat) :
    isBufferAddr a = true ↔ (0x1000 ≤ a ∧ a < 0x1100) ∨ (0x2000 ≤ a ∧ a < 0x4000) := by
  simp [isBufferAddr, Config.sbSize, Config.cwSize]

theorem isBufferAddr_cwAddr {i : Nat} (h : i < 8192) : isBufferAddr (cwAddr i) = true := by
  rw [isBufferAddr_iff]
  unfold cwAddr
  omega

theorem isBufferAddr_sbAddr {i : Nat} (h : i < 256) : isBufferAddr (sbAddr i) = true := by
  rw [isBufferAddr_iff]
  unfold sbAddr
  omega

theorem setCell_addr (a : Nat) (b : Byte) (l : List Host.Cell) :
    ∀ c ∈ setCell a b l, c.1 = a ∨ c ∈ l := by
  induction l with
  | nil => simp [setCell]
  | cons x rest ih =>
    obtain ⟨k, e⟩ := x
    simp only [setCell]
    split_ifs with h1 h2
    · intro c hc
      rcases List.mem_cons.mp hc with rfl | hc
      · exact .inl rfl
      · exact .inr hc
    · intro c hc
      rcases List.mem_cons.mp hc with rfl | hc
      · exact .inl rfl
      · exact .inr (List.mem_cons_of_mem _ hc)
    · intro c hc
      rcases List.mem_cons.mp hc with rfl | hc
      · exact .inr (by simp)
      · exact (ih c hc).imp id (List.mem_cons_of_mem _)

theorem setCell_rising (a : Nat) (b : Byte) (l : List Host.Cell)
    (h : l.Pairwise fun x y => x.1 < y.1) : (setCell a b l).Pairwise fun x y => x.1 < y.1 := by
  induction l with
  | nil => simp [setCell]
  | cons x rest ih =>
    obtain ⟨k, c⟩ := x
    obtain ⟨h1, h2⟩ := List.pairwise_cons.mp h
    simp only [setCell]
    split_ifs with ha he
    · refine List.pairwise_cons.mpr ⟨?_, h⟩
      intro y hy
      rcases List.mem_cons.mp hy with rfl | hy
      · exact ha
      · exact Nat.lt_trans ha (h1 y hy)
    · subst he
      exact List.pairwise_cons.mpr ⟨h1, h2⟩
    · refine List.pairwise_cons.mpr ⟨?_, ih h2⟩
      intro y hy
      rcases setCell_addr a b rest y hy with e | hy
      · rw [e]; dsimp only; omega
      · exact h1 y hy

/-- Writing one buffer byte keeps the canonical form. -/
theorem Memory.wf_setByte (m : Memory) (a : Nat) (b : Byte) (h : m.wf) (ha : isBufferAddr a = true) :
    (m.setByte a b).wf := by
  refine ⟨setCell_rising a b _ h.1, fun c hc => ?_⟩
  rcases setCell_addr a b _ c hc with e | hc
  · rw [e]; exact ha
  · exact h.2 c hc

/-- Every memory operation writes through `setBytes`, which keeps the canonical form on buffer addresses. -/
theorem Memory.wf_setBytes (m : Memory) (l : List (Nat × Byte)) (h : m.wf)
    (hl : ∀ p ∈ l, isBufferAddr p.1 = true) : (m.setBytes l).wf := by
  induction l generalizing m with
  | nil => exact h
  | cons p l ih =>
    exact ih _ (Memory.wf_setByte m p.1 p.2 h (hl p (by simp))) fun q hq => hl q (by simp [hq])

/-- The reset memory is in canonical form. -/
theorem State.reset_memory_wf : State.reset.store.mem.wf := by decide

/-! ### Lists of bytes at consecutive addresses -/

theorem leBytes_mem (a n : Nat) (v : Word) (p : Nat × Byte) :
    p ∈ leBytes a n v ↔ ∃ j < n, p = (a + j, v.extractLsb' (8 * j) 8) := by
  simp [leBytes, List.mem_map, List.mem_range, eq_comm]

theorem leBytes_nodup (a n : Nat) (v : Word) : ((leBytes a n v).map Prod.fst).Nodup := by
  simp only [leBytes, List.map_map]
  exact List.Nodup.map (fun x y h => by simpa using h) List.nodup_range

/-- A multi-byte write stores byte j of the value at address a + j (20_memory.md R85). -/
theorem Memory.byte_writeLe (m : Memory) (a n j : Nat) (v : Word) (h : j < n) :
    (m.writeLe a n v).byte (a + j) = v.extractLsb' (8 * j) 8 :=
  Memory.byte_setBytes_of_mem _ _ _ _ (leBytes_nodup a n v) ((leBytes_mem a n v _).mpr ⟨j, h, rfl⟩)

/-- A multi-byte write changes no other byte (20_memory.md R85). -/
theorem Memory.byte_writeLe_other (m : Memory) (a n a' : Nat) (v : Word) (h : a' < a ∨ a + n ≤ a') :
    (m.writeLe a n v).byte a' = m.byte a' := by
  refine Memory.byte_setBytes_of_not_mem _ _ _ fun p hp => ?_
  obtain ⟨j, hj, rfl⟩ := (leBytes_mem a n v p).mp hp
  dsimp only
  omega

theorem placeAt_mem (i : Nat) (l : List Byte) (p : Nat × Byte) :
    p ∈ placeAt i l ↔ ∃ j, ∃ h : j < l.length, p = (i + j, l[j]) := by
  simp [placeAt, List.mem_mapIdx, eq_comm]

theorem placeAt_fst (i : Nat) (l : List Byte) :
    (placeAt i l).map Prod.fst = (List.range l.length).map (i + ·) := by
  apply List.ext_getElem <;> simp [placeAt]

theorem cwBytes_nodup (i : Nat) (l : List Byte) :
    (((placeAt i l).map fun p => (cwAddr p.1, p.2)).map Prod.fst).Nodup := by
  have : (((placeAt i l).map fun p => (cwAddr p.1, p.2)).map Prod.fst) =
      ((placeAt i l).map Prod.fst).map cwAddr := by simp
  rw [this, placeAt_fst, List.map_map]
  exact List.Nodup.map (fun x y h => by simpa [cwAddr] using h) List.nodup_range

theorem sbBytes_nodup (i : Nat) (l : List Byte) :
    (((placeAt i l).map fun p => (sbAddr p.1, p.2)).map Prod.fst).Nodup := by
  have : (((placeAt i l).map fun p => (sbAddr p.1, p.2)).map Prod.fst) =
      ((placeAt i l).map Prod.fst).map sbAddr := by simp
  rw [this, placeAt_fst, List.map_map]
  exact List.Nodup.map (fun x y h => by simpa [sbAddr] using h) List.nodup_range

/-! ### Writing twice -/

theorem setCell_idem (a : Nat) (b : Byte) (l : List Host.Cell) : setCell a b (setCell a b l) = setCell a b l := by
  induction l with
  | nil => simp [setCell]
  | cons x l ih =>
    obtain ⟨k, c⟩ := x
    simp only [setCell]
    split_ifs with h1 h2
    · simp [setCell]
    · simp [setCell]
    · simp [setCell, h1, h2, ih]

theorem setCell_comm (a a' : Nat) (b b' : Byte) (h : a ≠ a') (l : List Host.Cell) :
    setCell a b (setCell a' b' l) = setCell a' b' (setCell a b l) := by
  induction l with
  | nil => simp only [setCell]; split_ifs <;> first | omega | rfl
  | cons x l ih =>
    obtain ⟨k, c⟩ := x
    simp only [setCell]
    split_ifs <;> simp only [setCell] <;> split_ifs <;> first | omega | rfl | simp_all

theorem Memory.setByte_idem (m : Memory) (a : Nat) (b : Byte) : (m.setByte a b).setByte a b = m.setByte a b := by
  simp [Memory.setByte, setCell_idem]

theorem Memory.setByte_comm (m : Memory) (a a' : Nat) (b b' : Byte) (h : a ≠ a') :
    (m.setByte a b).setByte a' b' = (m.setByte a' b').setByte a b := by
  simp [Memory.setByte, setCell_comm a' a b' b h.symm]

theorem Memory.setBytes_setByte (m : Memory) (l : List (Nat × Byte)) (a : Nat) (b : Byte) (h : ∀ p ∈ l, p.1 ≠ a) :
    (m.setByte a b).setBytes l = (m.setBytes l).setByte a b := by
  induction l generalizing m with
  | nil => rfl
  | cons p l ih =>
    rw [Memory.setBytes_cons, Memory.setByte_comm _ _ _ _ _ (h p (by simp)).symm, ih _ fun q hq => h q (by simp [hq])]
    rfl

/-- Writing the same bytes twice is writing them once. -/
theorem Memory.setBytes_idem (m : Memory) (l : List (Nat × Byte)) (hn : (l.map Prod.fst).Nodup) :
    (m.setBytes l).setBytes l = m.setBytes l := by
  induction l generalizing m with
  | nil => rfl
  | cons p l ih =>
    simp only [List.map_cons, List.nodup_cons] at hn
    have hl : ∀ q ∈ l, q.1 ≠ p.1 := fun q hq e => hn.1 (List.mem_map.mpr ⟨q, hq, e⟩)
    simp only [Memory.setBytes_cons]
    rw [Memory.setBytes_setByte _ _ _ _ hl, Memory.setBytes_setByte _ _ _ _ hl,
      Memory.setBytes_setByte _ _ _ _ hl, Memory.setByte_idem, ih _ hn.2]

/-! ### A list of bytes in SB or CW -/

/-- A byte a command wrote to SB. -/
theorem Memory.sb_after (m : Memory) (l : List Byte) (j : Nat) (h : j < l.length) :
    (m.setBytes ((placeAt 0 l).map fun p => (sbAddr p.1, p.2))).byte (sbAddr j) = l[j] := by
  apply Memory.byte_setBytes_of_mem _ _ _ _ (sbBytes_nodup 0 l)
  refine List.mem_map.mpr ⟨(j, l[j]), (placeAt_mem _ _ _).mpr ⟨j, h, by simp⟩, rfl⟩

/-- A byte a command wrote to CW. -/
theorem Memory.cw_after (m : Memory) (l : List Byte) (i j : Nat) (h : j < l.length) :
    (m.setBytes ((placeAt i l).map fun p => (cwAddr p.1, p.2))).byte (cwAddr (i + j)) = l[j] := by
  apply Memory.byte_setBytes_of_mem _ _ _ _ (cwBytes_nodup i l)
  exact List.mem_map.mpr ⟨(i + j, l[j]), (placeAt_mem _ _ _).mpr ⟨j, h, by simp⟩, rfl⟩

/-- What a write to SB leaves alone. -/
theorem Memory.sb_other (m : Memory) (l : List Byte) (a : Nat) (h : ¬ (0x1000 ≤ a ∧ a < 0x1000 + l.length)) :
    (m.setBytes ((placeAt 0 l).map fun p => (sbAddr p.1, p.2))).byte a = m.byte a := by
  apply Memory.byte_setBytes_of_not_mem
  intro p hp e
  obtain ⟨q, hq, rfl⟩ := List.mem_map.mp hp
  obtain ⟨j, hj, rfl⟩ := (placeAt_mem _ _ _).mp hq
  simp only [sbAddr] at e; omega

/-- What a write to CW leaves alone. -/
theorem Memory.cw_other (m : Memory) (l : List Byte) (i a : Nat) (h : ¬ (0x2000 + i ≤ a ∧ a < 0x2000 + i + l.length)) :
    (m.setBytes ((placeAt i l).map fun p => (cwAddr p.1, p.2))).byte a = m.byte a := by
  apply Memory.byte_setBytes_of_not_mem
  intro p hp e
  obtain ⟨q, hq, rfl⟩ := List.mem_map.mp hp
  obtain ⟨j, hj, rfl⟩ := (placeAt_mem _ _ _).mp hq
  simp only [cwAddr] at e; omega

end Sys2Proof.Machine
end

