-- ==== Sys2Proof/Laws/Plane.lean ====
section
/-!
SUPPORT. The matrix plane: a read after a write, what a write leaves alone, and that writes keep the square.
-/

namespace Sys2Proof.Machine

@[simp] theorem Plane.setModule_length (p : Plane) (r c : Nat) (b : Bool) :
    (p.setModule r c b).length = p.length := by
  simp [Plane.setModule]

/-- The rows of a plane after one module is written. -/
theorem Plane.setModule_row (p : Plane) (r c r' : Nat) (b : Bool) :
    (p.setModule r c b).getD r' [] =
      if r' = r then (p.getD r' []).set c b else p.getD r' [] := by
  simp only [Plane.setModule, List.getD_eq_getElem?_getD, List.getElem?_modify]
  by_cases h : r' = r
  · subst h
    cases p[r']? <;> simp
  · simp [h, Ne.symm h]

/-- A read of another module after a write. -/
theorem Plane.module_setModule_other (p : Plane) (r c r' c' : Nat) (b : Bool) (h : r' ≠ r ∨ c' ≠ c) :
    (p.setModule r c b).module r' c' = p.module r' c' := by
  unfold Plane.module
  rw [Plane.setModule_row]
  split_ifs with hr
  · have hc : c' ≠ c := h.resolve_left (not_not.mpr hr)
    simp [List.getD_eq_getElem?_getD, Ne.symm hc]
  · rfl

/-- A read of the written module, when the plane has it. -/
theorem Plane.module_setModule_same (p : Plane) (r c : Nat) (b : Bool) (hc : c < (p.getD r []).length) :
    (p.setModule r c b).module r c = b := by
  unfold Plane.module
  rw [Plane.setModule_row, if_pos rfl]
  simp [List.getD_eq_getElem?_getD, List.getElem?_set] at hc ⊢
  simp [hc]

theorem Plane.isSquare.row_length {p : Plane} {n : Nat} (h : p.isSquare n) {r : Nat} (hr : r < n) :
    (p.getD r []).length = n := by
  have hr' : r < p.length := by rw [h.1]; exact hr
  rw [List.getD_eq_getElem _ _ hr']
  exact h.2 _ (List.getElem_mem hr')

/-- Writing one module keeps the square. -/
theorem Plane.isSquare.setModule {p : Plane} {n : Nat} (h : p.isSquare n) (r c : Nat) (b : Bool) :
    (p.setModule r c b).isSquare n := by
  refine ⟨by simp [h.1], fun row hrow => ?_⟩
  obtain ⟨i, hi, rfl⟩ := List.mem_iff_getElem.mp hrow
  have hi' : i < p.length := by simpa using hi
  have e : (p.setModule r c b)[i] = (p.setModule r c b).getD i [] := (List.getD_eq_getElem _ _ hi).symm
  rw [e, Plane.setModule_row]
  have := h.row_length (r := i) (by rw [← h.1]; exact hi')
  split_ifs
  · rw [List.length_set, this]
  · exact this

@[simp] theorem Plane.setModules_nil (p : Plane) : p.setModules [] = p := rfl

@[simp] theorem Plane.setModules_cons (p : Plane) (m : Nat × Nat × Bool) (l : List (Nat × Nat × Bool)) :
    p.setModules (m :: l) = (p.setModule m.1 m.2.1 m.2.2).setModules l := rfl

/-- Writing modules keeps the square. -/
theorem Plane.isSquare.setModules {p : Plane} {n : Nat} (h : p.isSquare n) (l : List (Nat × Nat × Bool)) :
    (p.setModules l).isSquare n := by
  induction l generalizing p with
  | nil => exact h
  | cons m l ih => exact ih (h.setModule _ _ _)

/-- A list of writes leaves every module it does not name alone. -/
theorem Plane.module_setModules_of_not_mem (p : Plane) (l : List (Nat × Nat × Bool)) (r c : Nat)
    (h : ∀ m ∈ l, (m.1, m.2.1) ≠ (r, c)) : (p.setModules l).module r c = p.module r c := by
  induction l generalizing p with
  | nil => rfl
  | cons m l ih =>
    rw [Plane.setModules_cons, ih _ fun q hq => h q (by simp [hq])]
    refine Plane.module_setModule_other _ _ _ _ _ _ ?_
    have := h m (by simp)
    by_contra hc
    simp only [not_or, not_not] at hc
    exact this (by rw [hc.1, hc.2])

/-- A read of a written module of a square plane, when no two writes name one module. -/
theorem Plane.module_setModules_of_mem (p : Plane) (n : Nat) (hp : p.isSquare n)
    (l : List (Nat × Nat × Bool)) (r c : Nat) (b : Bool) (hr : r < n) (hc : c < n)
    (hn : (l.map fun m => (m.1, m.2.1)).Nodup) (h : (r, c, b) ∈ l) :
    (p.setModules l).module r c = b := by
  induction l generalizing p with
  | nil => simp at h
  | cons m l ih =>
    rw [Plane.setModules_cons]
    simp only [List.map_cons, List.nodup_cons] at hn
    rcases List.mem_cons.mp h with rfl | h
    · rw [Plane.module_setModules_of_not_mem, Plane.module_setModule_same]
      · rw [hp.row_length hr]; exact hc
      · intro q hq e
        exact hn.1 (List.mem_map.mpr ⟨q, hq, e⟩)
    · exact ih _ (hp.setModule _ _ _) hn.2 h

/-! ### Squares given by a function -/

/-- The square a function fills has the module the function gives. -/
theorem square_module (n : Nat) (f : Nat → Nat → Bool) (r c : Nat) (hr : r < n) (hc : c < n) :
    (square n f).module r c = f r c := by
  simp [Plane.module, square, List.getD_eq_getElem?_getD, hr, hc]

theorem square_isSquare (n : Nat) (f : Nat → Nat → Bool) : (square n f).isSquare n := by
  refine ⟨by simp [square], fun row h => ?_⟩
  simp only [square, List.mem_map] at h
  obtain ⟨r, -, rfl⟩ := h
  simp

/-- Two squares with the same modules are equal. -/
theorem square_congr (n : Nat) (f g : Nat → Nat → Bool) (h : ∀ r < n, ∀ c < n, f r c = g r c) :
    square n f = square n g := by
  unfold square
  refine List.map_congr_left fun r hr => List.map_congr_left fun c hc => ?_
  exact h r (List.mem_range.mp hr) c (List.mem_range.mp hc)

/-- A square plane is the square of its own modules. -/
theorem Plane.isSquare.eq_square {p : Plane} {n : Nat} (h : p.isSquare n) : p = square n p.module := by
  apply List.ext_getElem
  · simp [square, h.1]
  · intro r h1 h2
    have hr : r < n := by rw [← h.1]; exact h1
    have hrow : (p[r]).length = n := h.2 _ (List.getElem_mem h1)
    apply List.ext_getElem
    · simp [square, hrow]
    · intro c h3 h4
      simp [square, Plane.module, List.getD_eq_getElem?_getD, h1, h3]

end Sys2Proof.Machine
end

