-- ==== Sys2Proof/Laws/Exec.lean ====
section
/-!
SUPPORT. What `exec`, a completion and a step can do, said once.
-/

namespace Sys2Proof.Machine

/-- Every command is the completion of its `run` on the snapshot (40_control.md R142). -/
theorem exec_eq (i : Instr) (s : State) : exec i s = .next (s.finish (runInstr i s.snap)) := by
  cases i <;> rfl

theorem exec_ok {i : Instr} {s : State} {w : Writes} (h : runInstr i s.snap = .ok w) :
    exec i s = .next (s.succeed w) := by
  rw [exec_eq, h, State.finish_ok]

theorem exec_err {i : Instr} {s : State} {e : ErrCode} (h : runInstr i s.snap = .err e) :
    exec i s = .next (s.failCommand e) := by
  rw [exec_eq, h, State.finish_err]

/-- The engine's turn while BUSY is a completion of `run(decode(w), snap)` (40_control.md R142). -/
theorem engineTurn_busy {s : State} {w : Word} {snap : Store} (h : s.engine = .busy w snap) :
    engineTurn s = .next (s.finish (runWord w snap)) := by
  unfold engineTurn runWord
  rw [h]
  dsimp only
  cases decode w with
  | error e => rfl
  | ok i => simp [exec_eq, State.snap_busy s w snap h]

theorem engineTurn_idle {s : State} (h : s.engine = .idle) : engineTurn s = .next s := by
  simp [engineTurn, h]

/-- What one step can do: an engine's turn, a host access or a power-on reset. -/
theorem step_cases (s : State) :
    (s.agenda = [] ∧ step s = engineTurn s) ∨
    (∃ rest, s.agenda = .engine :: rest ∧ step s = engineTurn { s with agenda := rest }) ∨
    (∃ acc rest, s.agenda = .host acc :: rest ∧
      step s = .next (State.access { s with agenda := rest } acc)) ∨
    (∃ rest, s.agenda = .powerOn :: rest ∧ step s = .next (State.powerOnReset { s with agenda := rest })) := by
  unfold step nextEvent
  match h : s.agenda with
  | [] => exact .inl ⟨rfl, by simp⟩
  | .engine :: rest => exact .inr (.inl ⟨rest, rfl, by simp [State.event]⟩)
  | .host acc :: rest => exact .inr (.inr (.inl ⟨acc, rest, rfl, by simp [State.event]⟩))
  | .powerOn :: rest => exact .inr (.inr (.inr ⟨rest, rfl, by simp [State.event]⟩))

/-! ### Error codes -/

theorem ErrCode.code_ne_zero (e : ErrCode) : e.code ≠ 0 := by cases e <;> decide

theorem ErrCode.code_le (e : ErrCode) : e.code.toNat ≤ 7 := by cases e <;> decide

/-! ### Completions -/

theorem Csrs.apply_result_only (c : Csrs) (r : Word) :
    c.apply { result := some r } = { c with result := r } := rfl

@[simp] theorem Csrs.apply_empty (c : Csrs) : c.apply {} = c := rfl

/-- A completion leaves the agenda, the answers and the count of abandoned commands alone, and the engine IDLE. -/
theorem State.finish_frame (s : State) (r : CmdResult) :
    (s.finish r).engine = .idle ∧ (s.finish r).agenda = s.agenda ∧ (s.finish r).answers = s.answers ∧
      (s.finish r).abandons = s.abandons := by
  cases r <;> simp

/-- A completion leaves the operand CSRs and the enables alone, and sets DONE. -/
theorem State.finish_operands (s : State) (r : CmdResult) :
    (s.finish r).store.csr.doneIe = s.store.csr.doneIe ∧ (s.finish r).store.csr.errIe = s.store.csr.errIe ∧
      (s.finish r).store.csr.version = s.store.csr.version ∧
      (s.finish r).store.csr.src = s.store.csr.src ∧ (s.finish r).store.csr.dst = s.store.csr.dst ∧
      (s.finish r).store.csr.len = s.store.csr.len ∧ (s.finish r).store.csr.done = true := by
  cases r <;> simp

/-- A successful completion that writes only CSRs. -/
theorem State.succeed_csr_only (s : State) (w : Writes) (hcw : w.cw = []) (hsb : w.sb = [])
    (hwh : w.whole = none) (hm : w.modules = []) (hl : w.latch = none) :
    s.succeed w =
      { s with engine := .idle, store := { s.store with csr := (s.store.csr.apply w).setDone } } := by
  simp [State.succeed, Store.apply, Writes.bytes, hcw, hsb, hwh, hm, hl]

/-- A successful completion that writes only CSRs and buffers. -/
theorem State.succeed_bytes_only (s : State) (w : Writes)
    (hwh : w.whole = none) (hm : w.modules = []) (hl : w.latch = none) :
    s.succeed w =
      { s with
        engine := .idle
        store :=
          { s.store with
            csr := (s.store.csr.apply w).setDone
            mem := s.store.mem.setBytes w.bytes } } := by
  simp [State.succeed, Store.apply, hwh, hm, hl]

/-- A successful completion that writes only CSRs and the plane. -/
theorem State.succeed_plane_only (s : State) (w : Writes) (hcw : w.cw = []) (hsb : w.sb = [])
    (hl : w.latch = none) :
    s.succeed w =
      { s with
        engine := .idle
        store :=
          { s.store with
            csr := (s.store.csr.apply w).setDone
            plane := (w.whole.getD s.store.plane).setModules w.modules } } := by
  simp [State.succeed, Store.apply, Writes.bytes, hcw, hsb, hl]

end Sys2Proof.Machine
end

