-- ==== Sys2Proof/Laws/Bus.lean ====
section
/-!
SUPPORT. What a host access and the resets can do, said once.
-/

set_option Elab.async false

namespace Sys2Proof.Machine

/-! ### The CSR map -/

/-- The map of 10_state.md R34 read both ways. -/
theorem csrAt_offset (r : Csr) : csrAt r.offset.toNat = some r := by
  cases r with
  | score k => fin_cases k <;> rfl
  | _ => rfl

/-- No CSR stands above the CSR window. -/
theorem csrAt_big {a : Nat} (h : 0x100 ≤ a) : csrAt a = none := by
  unfold csrAt
  split <;> first | rfl | omega

theorem csrAt_mdata (a : Nat) : csrAt a = some .mdata ↔ a = 0x48 := by
  constructor
  · intro h
    unfold csrAt at h
    split at h <;> first | rfl | simp at h
  · rintro rfl; rfl

theorem csrAt_ctrl (a : Nat) : csrAt a = some .ctrl ↔ a = 0x04 := by
  constructor
  · intro h
    unfold csrAt at h
    split at h <;> first | rfl | simp at h
  · rintro rfl; rfl

theorem csrAt_status (a : Nat) : csrAt a = some .status ↔ a = 0x08 := by
  constructor
  · intro h
    unfold csrAt at h
    split at h <;> first | rfl | simp at h
  · rintro rfl; rfl

/-! ### Refusal -/

/-- A refusal depends on the engine state and, for MDATA, on whether MADDR selects a module (20_memory.md R82). -/
theorem refused_congr (acc : Access) (s t : State) (he : t.engine.isBusy = s.engine.isBusy)
    (hm : csrAt acc.addr.toNat = some .mdata → t.store.mdataOpen = s.store.mdataOpen) : refused acc t = refused acc s := by
  simp only [refused, he]
  by_cases h : csrAt acc.addr.toNat = some .mdata
  · simp only [hm h]
  · simp [h]

/-- CTRL may be written at any time (20_memory.md R89). -/
theorem ctrl_not_refused (s : State) (v : Word) : refused (.write 0x04 4 v) s = false := by
  simp [refused, Access.addr, Access.width, regionOf, csrAt, busyAllows]

/-- STATUS may be written at any time (20_memory.md R89). -/
theorem status_not_refused (s : State) (v : Word) : refused (.write 0x08 4 v) s = false := by
  simp [refused, Access.addr, Access.width, regionOf, csrAt, busyAllows]

/-! ### Accesses -/

theorem State.access_read_ok {s : State} {a : Addr} {n : Nat} {v : Word} (h : hostRead a n s = .ok v) :
    s.access (.read a n) = s.answer (.data v) := by simp only [State.access, h]

theorem State.access_read_error {s : State} {a : Addr} {n : Nat} {f : Fault} (h : hostRead a n s = .error f) :
    s.access (.read a n) = s.answer (.error f) := by simp only [State.access, h]

theorem State.access_write_ok {s t : State} {a : Addr} {n : Nat} {v : Word} (h : hostWrite a n v s = .ok t) :
    s.access (.write a n v) = t.answer .written := by simp only [State.access, h]

theorem State.access_write_error {s : State} {a : Addr} {n : Nat} {v : Word} {f : Fault}
    (h : hostWrite a n v s = .error f) : s.access (.write a n v) = s.answer (.error f) := by
  simp only [State.access, h]

/-- Everything a host access can do: answer only, write buffer bytes, or write a CSR. -/
theorem access_cases (s : State) (acc : Access) :
    (∃ r, s.access acc = s.answer r) ∨
    (∃ a n v, acc = .write a n v ∧ refused acc s = false ∧
      ((csrAt a.toNat = none ∧
        s.access acc =
          State.answer { s with store := { s.store with mem := s.store.mem.writeLe a.toNat n v } } .written) ∨
       ∃ r, csrAt a.toNat = some r ∧ s.access acc = (writeCsr r v s).answer .written)) := by
  cases acc with
  | read a n =>
    left
    simp only [State.access]
    cases hostRead a n s <;> exact ⟨_, rfl⟩
  | write a n v =>
    by_cases hr : refused (.write a n v) s = true
    · left; simp only [State.access, hostWrite, hr]; exact ⟨_, rfl⟩
    · rw [Bool.not_eq_true] at hr
      right
      refine ⟨a, n, v, rfl, hr, ?_⟩
      cases h : csrAt a.toNat with
      | none => left; simp [State.access, hostWrite, hr, h]
      | some r => right; exact ⟨r, rfl, by simp [State.access, hostWrite, hr, h]⟩

/-! ### Resets -/

theorem State.softReset_idle {s : State} (h : s.engine = .idle) :
    s.softReset = { s with store := s.store.resetCsrs } := by
  simp [State.softReset, h]

theorem State.softReset_busy {s : State} {w : Word} {snap : Store} (h : s.engine = .busy w snap) :
    s.softReset =
      { s with
        store := (s.store.abandon (pendingWrites w snap) s.abandons).resetCsrs
        engine := .idle
        abandons := s.abandons + 1 } := by
  simp [State.softReset, h]

end Sys2Proof.Machine
end

