-- ==== Sys2Proof/Laws/Encoding.lean ====
section
/-!
SUPPORT. The fields of a word and the word of the fields.
-/

namespace Sys2Proof

theorem packBytes_toNat (b0 b1 b2 b3 : Byte) :
    (packBytes b0 b1 b2 b3).toNat =
      b0.toNat + 2 ^ 8 * b1.toNat + 2 ^ 16 * b2.toNat + 2 ^ 24 * b3.toNat := by
  have h0 := b0.isLt
  have h1 := b1.isLt
  have h2 := b2.isLt
  have h3 := b3.isLt
  rw [packBytes, BitVec.toNat_ofNat, Nat.mod_eq_of_lt]
  omega

theorem extract_toNat (w : Word) (i : Nat) : (w.extractLsb' i 8).toNat = w.toNat / 2 ^ i % 256 := by
  simp [BitVec.extractLsb'_toNat, Nat.shiftRight_eq_div_pow]

/-- Packing four bytes and taking them out again (30_encoding.md R110). -/
theorem extract_packBytes (b0 b1 b2 b3 : Byte) :
    (packBytes b0 b1 b2 b3).extractLsb' 0 8 = b0 ∧ (packBytes b0 b1 b2 b3).extractLsb' 8 8 = b1 ∧
      (packBytes b0 b1 b2 b3).extractLsb' 16 8 = b2 ∧ (packBytes b0 b1 b2 b3).extractLsb' 24 8 = b3 := by
  have h0 := b0.isLt
  have h1 := b1.isLt
  have h2 := b2.isLt
  have h3 := b3.isLt
  refine ⟨?_, ?_, ?_, ?_⟩ <;>
  · apply BitVec.eq_of_toNat_eq
    rw [extract_toNat, packBytes_toNat]
    omega

/-- A word is packed from its four bytes. -/
theorem packBytes_extract (w : Word) :
    packBytes (w.extractLsb' 0 8) (w.extractLsb' 8 8) (w.extractLsb' 16 8) (w.extractLsb' 24 8) = w := by
  have h := w.isLt
  apply BitVec.eq_of_toNat_eq
  rw [packBytes_toNat, extract_toNat, extract_toNat, extract_toNat, extract_toNat]
  omega

theorem Fields.ofWord_toWord (f : Fields) : Fields.ofWord f.toWord = f := by
  obtain ⟨h0, h1, h2, h3⟩ := extract_packBytes f.opc f.a f.b f.c
  simp only [Fields.ofWord, Fields.toWord, h0, h1, h2, h3]

theorem Fields.toWord_ofWord (w : Word) : (Fields.ofWord w).toWord = w := packBytes_extract w

/-- The fields of a command pass the checks (30_encoding.md R117). -/
theorem Instr.fields_problem (i : Instr) : i.fields.problem = none := by
  cases i <;> simp [Instr.fields, Fields.problem, listedOpcodes, opcodesUsingA, opcodesUsingB]

/-- The map of 30_encoding.md R113, read both ways. -/
theorem instrOf_fields (i : Instr) : instrOf i.fields = some i := by cases i <;> rfl

/-- What the checks of 30_encoding.md R117 leave of the fields. -/
theorem problem_none {f : Fields} (h : f.problem = none) :
    f.opc ∈ listedOpcodes ∧ f.c = 0 ∧ (f.opc ∈ opcodesUsingA ∨ f.a = 0) ∧
      (f.opc ∈ opcodesUsingB ∨ f.b = 0) := by
  unfold Fields.problem at h
  split_ifs at h with h1 h2 h3 h4
  refine ⟨h1, not_not.mp h2, ?_, ?_⟩
  · by_contra hc; push Not at hc; exact h3 hc
  · by_contra hc; push Not at hc; exact h4 hc

/-- Fields that decode are the fields of the command they decode to (30_encoding.md R116). -/
theorem decodeFields_ok {f : Fields} {i : Instr} (h : decodeFields f = .ok i) : i.fields = f := by
  unfold decodeFields at h
  split at h
  · cases h
  · rename_i hp
    obtain ⟨ho, hc, ha, hb⟩ := problem_none hp
    obtain ⟨o, a, b, c⟩ := f
    simp only [listedOpcodes, List.mem_cons, List.not_mem_nil, or_false] at ho
    subst hc
    rcases ho with rfl | rfl | rfl | rfl | rfl | rfl | rfl | rfl | rfl | rfl | rfl | rfl | rfl | rfl <;>
      simp [instrOf, opcodesUsingA, opcodesUsingB] at h ha hb <;> subst h <;> simp [Instr.fields, *]

theorem byte_eq_zero_iff (b : Byte) : b = 0 ↔ b.toNat = 0 := by rw [← BitVec.toNat_inj]; simp

end Sys2Proof
end

