-- ==== Sys2Proof/Machine/HostNotation.lean ====
section
/-!
DEFINITION. The host notation (30_encoding.md R119, R120): each line is one host action or a pseudo-instruction, and
stands for a list of events of the machine. Also the canonical host sequence (70_reset_and_hazards.md R326).
-/

namespace Sys2Proof.Machine

/-- The lines of the host notation (30_encoding.md R119, R120). -/
inductive HostLine where
  /-- `wr NAME, v`. -/
  | wr (name : Csr) (v : Word)
  /-- `rd NAME`. -/
  | rd (name : Csr)
  /-- `wr8 addr, v`. -/
  | wr8 (addr : Addr) (v : Word)
  /-- `wr16 addr, v`. -/
  | wr16 (addr : Addr) (v : Word)
  /-- `wr32 addr, v`. -/
  | wr32 (addr : Addr) (v : Word)
  /-- `rd8 addr`. -/
  | rd8 (addr : Addr)
  /-- `rd16 addr`. -/
  | rd16 (addr : Addr)
  /-- `rd32 addr`. -/
  | rd32 (addr : Addr)
  /-- `mrd row, col`. -/
  | mrd (row col : Byte)
  /-- `mwr row, col, v`. -/
  | mwr (row col : Byte) (v : Word)
  /-- `cmd OP args`. -/
  | cmd (i : Instr)
  /-- `wait`, with the number of polls that still see BUSY = 1 (log entry 10). -/
  | wait (polls : Nat)
  /-- `exec OP args`: `cmd OP args` then `wait`. -/
  | exec (i : Instr) (polls : Nat)
  /-- `check`. -/
  | check
  /-- `clr`. -/
  | clr
  /-- `cwload addr, b0, b1, …`. -/
  | cwload (addr : Addr) (bytes : List Byte)
  deriving DecidableEq, Repr

/-- `MemRead(offset(NAME), 4)`. -/
def rdEvent (name : Csr) : Event := .host (.read name.offset 4)

/-- `MemWrite(offset(NAME), 4, v)`. -/
def wrEvent (name : Csr) (v : Word) : Event := .host (.write name.offset 4 v)

/-- `wait` (30_encoding.md R120: "repeat `rd STATUS -> s` until s[0] = 0"): some polls while the command runs, its
completion, and the poll that reads BUSY = 0 (log entry 10). -/
def waitEvents (polls : Nat) : List Event :=
  List.replicate polls (rdEvent .status) ++ [.engine, rdEvent .status]

/-- The events a line stands for (30_encoding.md R119, R120). The spec gives no meaning to a `cwload` whose addr + i
passes 0xFFFF; the model takes addr + i modulo 2^16 (log entry 17, DESIGN CHOICE). -/
def HostLine.events : HostLine → List Event
  | .wr name v => [wrEvent name v]
  | .rd name => [rdEvent name]
  | .wr8 a v => [.host (.write a 1 v)]
  | .wr16 a v => [.host (.write a 2 v)]
  | .wr32 a v => [.host (.write a 4 v)]
  | .rd8 a => [.host (.read a 1)]
  | .rd16 a => [.host (.read a 2)]
  | .rd32 a => [.host (.read a 4)]
  | .mrd row col => [wrEvent .maddr (packBytes col row 0 0), rdEvent .mdata]
  | .mwr row col v => [wrEvent .maddr (packBytes col row 0 0), wrEvent .mdata v]
  | .cmd i => [wrEvent .cmd (encode i)]
  | .wait polls => waitEvents polls
  | .exec i polls => wrEvent .cmd (encode i) :: waitEvents polls
  | .check => [rdEvent .status]
  | .clr => [wrEvent .status 0x00000006]
  | .cwload a bytes => bytes.mapIdx fun j b => .host (.write (a + BitVec.ofNat 16 j) 1 (b.setWidth 32))

/-- The events of a host program. -/
def hostEvents (program : List HostLine) : List Event := program.flatMap HostLine.events

/-- How many polls of the wait of each `exec` of the canonical sequence still read BUSY = 1 (log entry 10). -/
structure CanonicalPolls where
  /-- After ECCBLK. -/
  eccblk : Nat
  /-- After MXINIT. -/
  mxinit : Nat
  /-- After MXPLACE. -/
  mxplace : Nat
  /-- After MXSELECT, or after MXMASK for a forced mask. -/
  mask : Nat
  deriving DecidableEq, Repr

/-- The modules of version v for which `p` holds, row by row (the order is the model's choice, log entry 10). -/
def modulesWhere (v : Nat) (p : Nat → Nat → Bool) : List (Nat × Nat) :=
  (List.range (sideLength v)).flatMap fun r =>
    (List.range (sideLength v)).filterMap fun c => if p r c then some (r, c) else none

/-- The modules reserved for the format information and, for v ≥ 7, the version information (43_matrix.md R219, R220).
-/
def metadataModules (v : Nat) : List (Nat × Nat) :=
  modulesWhere v fun r c => isFormatModule v r c || isVersionModule v r c

/-- Step 7 of 70_reset_and_hazards.md R326: the format and version information into the reserved modules. The bits are
the host's (00_scope.md R4): it computes them from the level, the version and the mask it read in step 6. -/
def metadataLines (v : Nat) (metadata : Nat → Nat → Bool) : List HostLine :=
  (metadataModules v).map fun m =>
    .mwr (BitVec.ofNat 8 m.1) (BitVec.ofNat 8 m.2) (bitAt (metadata m.1 m.2) 0)

/-- Step 8 of 70_reset_and_hazards.md R326: every module is read. -/
def readOutLines (v : Nat) : List HostLine :=
  (modulesWhere v fun _ _ => true).map fun m => .mrd (BitVec.ofNat 8 m.1) (BitVec.ofNat 8 m.2)

/-- The canonical host sequence, steps 2 to 8 (70_reset_and_hazards.md R326), from what the host computes itself in
steps 1 and 7 (00_scope.md R4): the data codewords, the layout, the version, the total, a forced mask or none, and the
bits of the reserved modules. The spec leaves open how many polls of each wait still read BUSY = 1 (U6, 30_encoding.md
R120); the model takes these numbers as an argument, and reads RESULT after a forced mask too (log entry 10, DESIGN
CHOICE). -/
def canonicalSequence (data : List Byte) (b1 k1 b2 k2 nec : Byte) (version : BitVec 6) (total : BitVec 14)
    (forcedMask : Option Byte) (metadata : Nat → Nat → Bool) (polls : CanonicalPolls) : List HostLine :=
  [.cwload 0x2000 data, .wr .layout0 (packBytes b1 k1 b2 k2), .wr .layout1 (nec.setWidth 32),
   .exec .eccblk polls.eccblk, .check,
   .wr .version (version.setWidth 32), .exec .mxinit polls.mxinit, .check,
   .wr .arg0 4096, .wr .arg2 (total.setWidth 32), .exec .mxplace polls.mxplace, .check,
   .exec ((forcedMask.map Instr.mxmask).getD .mxselect) polls.mask, .check, .rd .result] ++
  metadataLines version.toNat metadata ++ readOutLines version.toNat

end Sys2Proof.Machine
end

