-- ==== Sys2Proof/Laws/Matrix.lean ====
section
/-!
SUPPORT. What the matrix commands write, and facts about the module sets they use.
-/

namespace Sys2Proof.Machine

/-- DM(V) fits DMCOUNT's 15 bits (10_state.md R48). -/
theorem dataModules_lt {v : Nat} (h : v ≤ 40) : dataModules v < 2 ^ 15 := by
  have : dataModules v ≤ sideLength v * sideLength v := by
    unfold dataModules
    have : ∀ l : List Nat, (∀ r ∈ l, ((List.range (sideLength v)).countP fun c => !isFunc v r c) ≤ sideLength v) →
      ((l.map fun r => (List.range (sideLength v)).countP fun c => !isFunc v r c)).sum ≤ l.length * sideLength v := by
      intro l
      induction l with
      | nil => simp
      | cons x l ih =>
        intro hl
        simp only [List.map_cons, List.sum_cons, List.length_cons]
        have := ih fun r hr => hl r (by simp [hr])
        have := hl x (by simp)
        rw [Nat.add_mul]; omega
    have h := this (List.range (sideLength v)) (fun r _ => by
      have := List.countP_le_length (p := fun c => !isFunc v r c) (l := List.range (sideLength v))
      rwa [List.length_range] at this)
    rwa [List.length_range] at h
  have : sideLength v ≤ 177 := by unfold sideLength; omega
  nlinarith

/-- What a successful command other than MXINIT writes of the latch, DMCOUNT and the whole plane (10_state.md R58). -/
theorem writes_not_mxinit {i : Instr} {snap : Store} {w : Writes} (hr : runInstr i snap = .ok w) (hi : i ≠ .mxinit) :
    w.latch = none ∧ w.dmcount = none ∧ (∀ p, w.whole = some p → p.isSquare (sideLength snap.mxver.toNat)) := by
  cases i with
  | mxinit => exact absurd rfl hi
  | nop | gfmul | gfexp => cases hr; exact ⟨rfl, rfl, fun p h => by cases h⟩
  | gflog a | gfinv a | rsgen n =>
    simp only [runInstr, runGflog, runGfinv, runRsgen] at hr
    split_ifs at hr
    cases hr
    exact ⟨rfl, rfl, fun p h => by cases h⟩
  | rsenc n k | rssyn n k | eccblk | mxplace | mxscore k =>
    simp only [runInstr, runRsenc, runRssyn, runEccblk, runMxplace, runMxscore] at hr
    split_ifs at hr
    cases hr
    exact ⟨rfl, rfl, fun p h => by cases h⟩
  | mxmask k =>
    simp only [runInstr, runMxmask] at hr
    split_ifs at hr
    cases hr
    refine ⟨rfl, rfl, fun p h => ?_⟩
    rw [← Option.some.inj h]
    exact square_isSquare _ _
  | mxselect =>
    simp only [runInstr, runMxselect] at hr
    split_ifs at hr
    cases hr
    refine ⟨rfl, rfl, fun p h => ?_⟩
    rw [← Option.some.inj h]
    exact square_isSquare _ _

/-- What a successful MXINIT writes (43_matrix.md R211). -/
theorem writes_mxinit {snap : Store} {w : Writes} (hr : runInstr .mxinit snap = .ok w) :
    1 ≤ snap.csr.version.toNat ∧ snap.csr.version.toNat ≤ 40 ∧ w.latch = some snap.csr.version ∧
      w.dmcount = some (BitVec.ofNat 15 (dataModules snap.csr.version.toNat)) ∧
      (∃ p, w.whole = some p ∧ p.isSquare (sideLength snap.csr.version.toNat)) := by
  simp only [runInstr, runMxinit] at hr
  split_ifs at hr with h
  cases hr
  simp only [Store.versionArg] at h
  exact ⟨by omega, by omega, by simp, rfl, _, rfl, square_isSquare _ _⟩

/-- There is no mask above 7 (44_mask.md R252). -/
theorem maskBit_ge {k i j : Nat} (h : 8 ≤ k) : maskBit k i j = false := by
  unfold maskBit
  split <;> first | omega | rfl

/-- The zig-zag holds data modules only (43_matrix.md R223). -/
theorem mem_zigzag_data {v r c : Nat} (h : (r, c) ∈ zigzag v) : isFunc v r c = false := by
  simp only [zigzag, pairModules, List.mem_flatMap, List.mem_filter] at h
  obtain ⟨q, -, k, -, -, h⟩ := h
  simpa using h

/-! ### The modules of the canonical host sequence -/

/-- The modules of the square for which `p` holds, and no others. -/
theorem mem_modulesWhere (v : Nat) (p : Nat → Nat → Bool) (r c : Nat) :
    (r, c) ∈ modulesWhere v p ↔ r < sideLength v ∧ c < sideLength v ∧ p r c = true := by
  simp only [modulesWhere, List.mem_flatMap, List.mem_filterMap, List.mem_range, Option.ite_none_right_eq_some,
    Option.some.injEq, Prod.mk.injEq]
  constructor
  · rintro ⟨r', hr, c', hc, hp, rfl, rfl⟩
    exact ⟨hr, hc, hp⟩
  · rintro ⟨hr, hc, hp⟩
    exact ⟨r, hr, c, hc, hp, rfl, rfl⟩

end Sys2Proof.Machine
end

