-- ==== Sys2Proof/Laws/PerInstr.lean ====
section
/-!
SUPPORT. Facts stated once for every command as syntax.
-/

namespace Sys2Proof.Laws.WordFields

/-- The word of a command has the command's fields in the bits of 30_encoding.md R110: an opcode of the map R113 and
a C field of 0 (R115). -/
def Statement (i : Instr) : Prop :=
  Fields.ofWord (encode i) = i.fields ∧ i.fields.opc ∈ listedOpcodes ∧ i.fields.c = 0

theorem of_opcode {i : Instr} (h : i.fields.opc ∈ listedOpcodes) (hc : i.fields.c = 0) : Statement i :=
  ⟨Fields.ofWord_toWord _, h, hc⟩

theorem nop : Statement .nop :=
  of_opcode (by simp [Instr.fields, listedOpcodes]) rfl

theorem gfmul (a b : Byte) : Statement (.gfmul a b) :=
  of_opcode (by simp [Instr.fields, listedOpcodes]) rfl

theorem gfexp (e : Byte) : Statement (.gfexp e) :=
  of_opcode (by simp [Instr.fields, listedOpcodes]) rfl

theorem gflog (a : Byte) : Statement (.gflog a) :=
  of_opcode (by simp [Instr.fields, listedOpcodes]) rfl

theorem gfinv (a : Byte) : Statement (.gfinv a) :=
  of_opcode (by simp [Instr.fields, listedOpcodes]) rfl

theorem rsgen (n : Byte) : Statement (.rsgen n) :=
  of_opcode (by simp [Instr.fields, listedOpcodes]) rfl

theorem rsenc (n k : Byte) : Statement (.rsenc n k) :=
  of_opcode (by simp [Instr.fields, listedOpcodes]) rfl

theorem rssyn (n l : Byte) : Statement (.rssyn n l) :=
  of_opcode (by simp [Instr.fields, listedOpcodes]) rfl

theorem eccblk : Statement .eccblk :=
  of_opcode (by simp [Instr.fields, listedOpcodes]) rfl

theorem mxinit : Statement .mxinit :=
  of_opcode (by simp [Instr.fields, listedOpcodes]) rfl

theorem mxplace : Statement .mxplace :=
  of_opcode (by simp [Instr.fields, listedOpcodes]) rfl

theorem mxmask (k : Byte) : Statement (.mxmask k) :=
  of_opcode (by simp [Instr.fields, listedOpcodes]) rfl

theorem mxscore (k : Byte) : Statement (.mxscore k) :=
  of_opcode (by simp [Instr.fields, listedOpcodes]) rfl

theorem mxselect : Statement .mxselect :=
  of_opcode (by simp [Instr.fields, listedOpcodes]) rfl

end Sys2Proof.Laws.WordFields
end

