-- ==== Sys2Proof/Laws/Rs.lean ====
section
/-!
SUPPORT. The Reed–Solomon coder: the lengths of what it computes, and when each command succeeds.
-/

namespace Sys2Proof.Machine

/-! ### Lengths -/

@[simp] theorem mulRoot_length (g : List Byte) (e : Byte) : (mulRoot g e).length = g.length + 1 := by
  simp [mulRoot]

theorem genPoly_succ (n : Nat) : genPoly (n + 1) = mulRoot (genPoly n) (gfExp n) := by
  simp [genPoly, List.range_succ]

/-- `gen(n)` has n + 1 coefficients (42_reed_solomon.md R181). -/
@[simp] theorem genPoly_length (n : Nat) : (genPoly n).length = n + 1 := by
  induction n with
  | zero => rfl
  | succ n ih => rw [genPoly_succ, mulRoot_length, ih]

theorem remStep_length (g rem : List Byte) (d : Byte) (h : g.length = rem.length + 1) (hr : rem ≠ []) :
    (remStep g rem d).length = rem.length := by
  have : 0 < rem.length := List.length_pos_iff.mpr hr
  simp [remStep, h]
  omega

/-- `rsRem(D, n)` has n bytes (42_reed_solomon.md R183). -/
theorem rsRem_length (data : List Byte) (n : Nat) (hn : n ≠ 0) : (rsRem data n).length = n := by
  have key : ∀ (l : List Byte) (rem : List Byte), rem.length = n →
      (l.foldl (remStep (genPoly n)) rem).length = n := by
    intro l
    induction l with
    | nil => intro rem h; exact h
    | cons d l ih =>
      intro rem h
      refine ih _ ?_
      rw [remStep_length _ _ _ (by simp [h]) (by intro e; simp [e] at h; omega), h]
  exact key data _ (by simp)

@[simp] theorem syndromes_length (r : List Byte) (n : Nat) : (syndromes r n).length = n := by
  simp [syndromes]

@[simp] theorem cwList_length (st : Store) (i n : Nat) : (st.cwList i n).length = n := by
  simp [Store.cwList]

@[simp] theorem splitBlocks_length (ks : List Nat) (data : List Byte) :
    (splitBlocks ks data).length = ks.length := by
  induction ks generalizing data with
  | nil => rfl
  | cons k ks ih => simp [splitBlocks, ih]

/-- The blocks have the lengths of the layout when there are enough data codewords (42_reed_solomon.md R188). -/
theorem splitBlocks_lengths (ks : List Nat) (data : List Byte) (h : ks.sum ≤ data.length) :
    (splitBlocks ks data).map List.length = ks := by
  induction ks generalizing data with
  | nil => rfl
  | cons k ks ih =>
    simp only [List.sum_cons] at h
    simp only [splitBlocks, List.map_cons, List.length_take]
    rw [ih _ (by rw [List.length_drop]; omega), Nat.min_eq_left (by omega)]

/-- The blocks in order are the data (42_reed_solomon.md R188: consecutive runs). -/
theorem splitBlocks_flatten (ks : List Nat) (data : List Byte) (h : ks.sum = data.length) :
    (splitBlocks ks data).flatten = data := by
  induction ks generalizing data with
  | nil =>
    rw [List.sum_nil] at h
    simp [splitBlocks, List.length_eq_zero_iff.mp h.symm]
  | cons k ks ih =>
    simp only [List.sum_cons] at h
    simp only [splitBlocks, List.flatten_cons]
    rw [ih _ (by rw [List.length_drop]; omega), List.take_append_drop]

theorem Layout.lengths_sum (y : Layout) : y.lengths.sum = y.dataTotal := by
  simp [Layout.lengths, Layout.dataTotal]

@[simp] theorem Layout.lengths_length (y : Layout) : y.lengths.length = y.b1 + y.b2 := by
  simp [Layout.lengths]

theorem column_length (ls : List (List Byte)) (j : Nat) :
    (column ls j).length = ls.countP fun l => j < l.length := by
  induction ls with
  | nil => rfl
  | cons l ls ih =>
    by_cases h : j < l.length
    · simp only [column, List.filterMap_cons, List.getElem?_eq_getElem h, List.length_cons, List.countP_cons]
      simp [h, ← ih, column]
    · simp only [column, List.filterMap_cons, List.getElem?_eq_none (Nat.not_lt.mp h), List.countP_cons]
      simp [h, ← ih, column]

/-- The columns of a list of lists hold each entry once, when they reach far enough. -/
theorem columns_length (ls : List (List Byte)) (m : Nat) (h : ∀ l ∈ ls, l.length ≤ m) :
    ((List.range m).flatMap (column ls)).length = (ls.map List.length).sum := by
  rw [List.length_flatMap]
  induction ls with
  | nil => simp [column]
  | cons l ls ih =>
    have hl : l.length ≤ m := h l (by simp)
    have e : ((List.range m).map fun j => (column (l :: ls) j).length) =
        (List.range m).map fun j => (column ls j).length + if j < l.length then 1 else 0 := by
      refine List.map_congr_left fun j _ => ?_
      simp [column_length, List.countP_cons]
    have s : ∀ k, k ≤ m → ((List.range m).map fun j => if j < k then 1 else 0).sum = k := by
      intro k hk
      have : ∀ m, ((List.range m).map fun j => if j < k then 1 else 0).sum = min k m := by
        intro m
        induction m with
        | zero => simp
        | succ m ihm =>
          rw [List.range_succ, List.map_append, List.sum_append, ihm]
          simp only [List.map_cons, List.map_nil, List.sum_cons, List.sum_nil]
          split_ifs <;> omega
      rw [this, Nat.min_eq_left hk]
    have add : ∀ (f g : Nat → Nat) (xs : List Nat),
        (xs.map fun j => f j + g j).sum = (xs.map f).sum + (xs.map g).sum := by
      intro f g xs
      induction xs with
      | nil => rfl
      | cons x xs ihx => simp only [List.map_cons, List.sum_cons, ihx]; omega
    rw [e, add, ih fun l' hl' => h l' (by simp [hl']), s _ hl]
    simp [Nat.add_comm]

theorem foldl_max_le (l : List Nat) (a x : Nat) (h : x ∈ l ∨ x ≤ a) : x ≤ l.foldl max a := by
  induction l generalizing a with
  | nil => simpa using h
  | cons y l ih =>
    rw [List.foldl_cons]
    refine ih _ ?_
    rcases h with h | h
    · rcases List.mem_cons.mp h with rfl | h
      · exact .inr (Nat.le_max_right _ _)
      · exact .inl h
    · exact .inr (Nat.le_trans h (Nat.le_max_left _ _))

/-- The final sequence has T codewords (42_reed_solomon.md R189: `len(out) = T`). -/
theorem encodeBlocks_length (y : Layout) (data : List Byte) (hd : data.length = y.dataTotal) (hn : y.n ≠ 0) :
    (encodeBlocks y data).length = y.total := by
  have hsum : y.lengths.sum ≤ data.length := by rw [y.lengths_sum, hd]
  simp only [encodeBlocks, interleave, List.length_append]
  rw [columns_length, columns_length, splitBlocks_lengths _ _ hsum, y.lengths_sum]
  · have : ((splitBlocks y.lengths data).map fun b => rsRem b y.n).map List.length =
        List.replicate (y.b1 + y.b2) y.n := by
      rw [List.map_map]
      refine List.eq_replicate_iff.mpr ⟨by simp, fun b hb => ?_⟩
      simp only [List.mem_map, Function.comp] at hb
      obtain ⟨l, -, rfl⟩ := hb
      exact rsRem_length _ _ hn
    rw [this]
    simp [Layout.total]
  · intro l hl
    obtain ⟨b, -, rfl⟩ := List.mem_map.mp hl
    rw [rsRem_length _ _ hn]
  · intro l hl
    exact foldl_max_le _ _ _ (.inl (List.mem_map_of_mem hl))

/-! ### When the commands succeed -/

theorem runRsgen_ok (n : Byte) (h : n.toNat ≠ 0) :
    runRsgen n = .ok { sb := placeAt 0 (genPoly n.toNat), result := some (toWord (n.toNat + 1)) } := by
  simp only [runRsgen, fieldValue]
  rw [if_neg h]

theorem runRsenc_ok (n k : Byte) (snap : Store) (hn : n.toNat ≠ 0) (hk : k.toNat ≠ 0)
    (hnk : n.toNat + k.toNat ≤ 255) (hs : snap.srcArg + k.toNat ≤ 8192) (hd : snap.dstArg + n.toNat ≤ 8192) :
    runRsenc n k snap =
      .ok { cw := placeAt snap.dstArg (rsRem (snap.cwList snap.srcArg k.toNat) n.toNat)
            result := some (toWord n.toNat) } := by
  simp only [runRsenc, fieldValue, Config.rsMaxLen, Config.cwSize]
  rw [if_neg (by omega), if_neg (by omega)]

theorem runRssyn_ok (n l : Byte) (snap : Store) (hn : n.toNat ≠ 0) (hl : l.toNat ≠ 0)
    (hs : snap.srcArg + l.toNat ≤ 8192) :
    runRssyn n l snap =
      .ok { sb := placeAt 0 (syndromes (snap.cwList snap.srcArg l.toNat) n.toNat)
            result := some
              (toWord ((syndromes (snap.cwList snap.srcArg l.toNat) n.toNat).countP (· ≠ 0))) } := by
  simp only [runRssyn, fieldValue, Config.cwSize]
  rw [if_neg (by omega), if_neg (by omega)]

theorem runEccblk_ok (snap : Store) (h : snap.layoutArg.Legal) :
    runEccblk snap =
      .ok { cw := placeAt 4096 (encodeBlocks snap.layoutArg (snap.cwList 0 snap.layoutArg.dataTotal))
            result := some (toWord snap.layoutArg.total) } := by
  simp only [runEccblk, Config.outBase]
  rw [if_pos h]

/-- Every buffer byte a command writes lies in the SB or CW window (20_memory.md R92). -/
theorem runInstr_bytes {i : Instr} {snap : Store} {w : Writes} (h : runInstr i snap = .ok w) :
    ∀ p ∈ w.bytes, isBufferAddr p.1 = true := by
  have sb : ∀ (l : List Byte), l.length ≤ 256 →
      ∀ p ∈ (placeAt 0 l).map fun p => (sbAddr p.1, p.2), isBufferAddr p.1 = true := by
    intro l hl p hp
    obtain ⟨q, hq, rfl⟩ := List.mem_map.mp hp
    obtain ⟨j, hj, rfl⟩ := (placeAt_mem _ _ _).mp hq
    exact isBufferAddr_sbAddr (by omega)
  have cw : ∀ (d : Nat) (l : List Byte), d + l.length ≤ 8192 →
      ∀ p ∈ (placeAt d l).map fun p => (cwAddr p.1, p.2), isBufferAddr p.1 = true := by
    intro d l hl p hp
    obtain ⟨q, hq, rfl⟩ := List.mem_map.mp hp
    obtain ⟨j, hj, rfl⟩ := (placeAt_mem _ _ _).mp hq
    exact isBufferAddr_cwAddr (by omega)
  cases i with
  | rsgen n =>
    simp only [runInstr, runRsgen, fieldValue] at h
    split_ifs at h
    cases h
    have := n.isLt
    simpa [Writes.bytes] using sb _ (by rw [genPoly_length]; omega)
  | rsenc n k =>
    simp only [runInstr, runRsenc, fieldValue, Config.rsMaxLen, Config.cwSize] at h
    split_ifs at h
    cases h
    simpa [Writes.bytes] using cw _ _ (by rw [rsRem_length _ _ (by omega)]; omega)
  | rssyn n l =>
    simp only [runInstr, runRssyn, fieldValue, Config.cwSize] at h
    split_ifs at h
    cases h
    have := n.isLt
    simpa [Writes.bytes] using sb _ (by rw [syndromes_length]; omega)
  | eccblk =>
    simp only [runInstr, runEccblk] at h
    split_ifs at h with hl
    cases h
    obtain ⟨-, -, hn, -, -, -, ht⟩ := hl
    simp only [Config.outBase] at ht
    simpa [Writes.bytes] using cw 4096 _ (by
      rw [encodeBlocks_length _ _ (by simp) (by omega)]; omega)
  | nop | gfmul | gfexp =>
    cases h
    simp [Writes.bytes]
  | gflog a | gfinv a =>
    simp only [runInstr, runGflog, runGfinv] at h
    split_ifs at h
    cases h
    simp [Writes.bytes]
  | mxinit | mxplace | mxmask k | mxscore k | mxselect =>
    simp only [runInstr, runMxinit, runMxplace, runMxmask, runMxscore, runMxselect] at h
    split_ifs at h
    cases h
    simp [Writes.bytes]

end Sys2Proof.Machine
end

