-- ==== Sys2Proof/Machine/Assembler.lean ====
section
/-!
DEFINITION. The assembler syntax of commands (30_encoding.md R118): the mnemonic, then the used operands
separated by a comma, each a decimal number or a `0x` hexadecimal number of 0–255. Text is a list of
characters.
-/

namespace Sys2Proof.Machine

/-- The mnemonics of 30_encoding.md R118. -/
inductive Mnemonic where
  | nop
  | gfmul
  | gfexp
  | gflog
  | gfinv
  | rsgen
  | rsenc
  | rssyn
  | eccblk
  | mxinit
  | mxplace
  | mxmask
  | mxscore
  | mxselect
  deriving DecidableEq, Repr

/-- The mnemonics with their spelling (30_encoding.md R113, R118). -/
def mnemonicTable : List (List Char × Mnemonic) :=
  [(['N', 'O', 'P'], .nop),
   (['G', 'F', 'M', 'U', 'L'], .gfmul),
   (['G', 'F', 'E', 'X', 'P'], .gfexp),
   (['G', 'F', 'L', 'O', 'G'], .gflog),
   (['G', 'F', 'I', 'N', 'V'], .gfinv),
   (['R', 'S', 'G', 'E', 'N'], .rsgen),
   (['R', 'S', 'E', 'N', 'C'], .rsenc),
   (['R', 'S', 'S', 'Y', 'N'], .rssyn),
   (['E', 'C', 'C', 'B', 'L', 'K'], .eccblk),
   (['M', 'X', 'I', 'N', 'I', 'T'], .mxinit),
   (['M', 'X', 'P', 'L', 'A', 'C', 'E'], .mxplace),
   (['M', 'X', 'M', 'A', 'S', 'K'], .mxmask),
   (['M', 'X', 'S', 'C', 'O', 'R', 'E'], .mxscore),
   (['M', 'X', 'S', 'E', 'L', 'E', 'C', 'T'], .mxselect)]

/-- An operand as written: a number, or the word `none` of `MXSCORE none` (30_encoding.md R118). -/
inductive AsmOperand where
  | number (n : Nat)
  | none
  deriving DecidableEq, Repr

/-- The value of a digit character below a base, either case for the letters (log entry 11). -/
def digitValue (base : Nat) (ch : Char) : Option Nat :=
  let k := ch.toNat
  let v :=
    if 48 ≤ k ∧ k ≤ 57 then some (k - 48)
    else if 65 ≤ k ∧ k ≤ 70 then some (k - 55)
    else if 97 ≤ k ∧ k ≤ 102 then some (k - 87)
    else none
  v.bind fun d => if d < base then some d else none

/-- The number a non-empty list of digits stands for. -/
def digitsValue (base : Nat) : List Char → Option Nat
  | [] => none
  | ds => ds.foldl (fun acc ch => acc.bind fun n => (digitValue base ch).map fun d => n * base + d) (some 0)

/-- An operand (30_encoding.md R118). -/
def parseOperand (t : List Char) : Option AsmOperand :=
  match t with
  | ['n', 'o', 'n', 'e'] => some .none
  | '0' :: 'x' :: ds => (digitsValue 16 ds).map .number
  | ds => (digitsValue 10 ds).map .number

/-- Cut a text at every occurrence of a character. -/
def splitAtChar (sep : Char) : List Char → List (List Char)
  | [] => [[]]
  | ch :: rest =>
    match splitAtChar sep rest with
    | [] => [[]]
    | head :: tail => if ch = sep then [] :: head :: tail else (ch :: head) :: tail

/-- The text without its spaces (log entry 11). -/
def withoutSpaces (t : List Char) : List Char := t.filter fun ch => ch ≠ ' '

/-- All operands of a line, separated by commas; no operand at all when there is no text. -/
def parseOperands (t : List Char) : Option (List AsmOperand) :=
  match withoutSpaces t with
  | [] => some []
  | u => (splitAtChar ',' u).mapM parseOperand

/-- An operand in its 8-bit field: a number of 0–255 (30_encoding.md R118). -/
def operandByte (n : Nat) : Option Byte := if n ≤ 255 then some (BitVec.ofNat 8 n) else none

/-- The command a mnemonic and its operands stand for (30_encoding.md R118; `MXSCORE none` is `MXSCORE 8`). -/
def assembleTokens (m : Mnemonic) (ops : List AsmOperand) : Option Instr :=
  match m, ops with
  | .nop, [] => some .nop
  | .gfmul, [.number a, .number b] => do return .gfmul (← operandByte a) (← operandByte b)
  | .gfexp, [.number e] => (operandByte e).map .gfexp
  | .gflog, [.number a] => (operandByte a).map .gflog
  | .gfinv, [.number a] => (operandByte a).map .gfinv
  | .rsgen, [.number n] => (operandByte n).map .rsgen
  | .rsenc, [.number n, .number k] => do return .rsenc (← operandByte n) (← operandByte k)
  | .rssyn, [.number n, .number l] => do return .rssyn (← operandByte n) (← operandByte l)
  | .eccblk, [] => some .eccblk
  | .mxinit, [] => some .mxinit
  | .mxplace, [] => some .mxplace
  | .mxmask, [.number k] => (operandByte k).map .mxmask
  | .mxscore, [.number k] => (operandByte k).map .mxscore
  | .mxscore, [.none] => some (.mxscore 8)
  | .mxselect, [] => some .mxselect
  | _, _ => none

/-- A line of assembler: the mnemonic up to the first space, then its operands (30_encoding.md R118). -/
def assembleInstr (line : List Char) : Option Instr := do
  let t := line.dropWhile fun ch => ch = ' '
  let name := t.takeWhile fun ch => ch ≠ ' '
  let m ← (mnemonicTable.find? fun e => e.1 = name).map fun e => e.2
  let ops ← parseOperands (t.drop name.length)
  assembleTokens m ops

/-- The assembled word, `{0x00, B, A, OPC}` (30_encoding.md R118). -/
def assemble (line : List Char) : Option Word := (assembleInstr line).map encode

end Sys2Proof.Machine
end

