-- ==== Sys2Proof/Tests/Slice0.lean ====
section
/-!
SUPPORT. The model's own tests, and one witness for the hypotheses of every obligation that has hypotheses. Expected
values stand in spec/95_test_vectors.md, under the vector each test names, or follow from the rule it names.
-/

set_option Elab.async false

open Sys2Proof Sys2Proof.Machine

namespace Sys2Proof.Tests

/-! ### Small states -/

/-- Buffer bytes at consecutive block addresses. -/
def cellsFrom (a : Nat) (l : List Byte) : List Host.Cell := l.mapIdx fun j b => (a + j, b)

/-- The state after reset with some CSRs and buffer bytes. -/
def idleWith (csr : Csrs) (cells : List Host.Cell) : State :=
  { State.reset with store := { State.reset.store with csr := csr, mem := { cells := cells, epoch := 0 } } }

/-- The n × n matrix whose rows are the numbers `rows`, column 0 the most significant of n bits. -/
def picture (n : Nat) (rows : List Nat) : Plane :=
  square n fun r c => (rows.getD r 0).testBit (n - 1 - c)

/-- A state with a version 1 matrix. -/
def matrixWith (csr : Csrs) (cells : List Host.Cell) (p : Plane) : State :=
  { State.reset with
    store :=
      { csr := { csr with dmcount := 208 }
        mem := { cells := cells, epoch := 0 }
        plane := p
        mxvalid := true
        mxver := 1 } }

/-- The state after the next step runs the command word `w`. -/
def after (s : State) (w : Nat) : Option State :=
  match step (s.withFetchWord 32 w) with
  | .next t => some t
  | _ => none

/-- RESULT after the command word `w`. -/
def resultAfter (s : State) (w : Nat) : Option Word := (after s w).map fun t => t.store.csr.result

/-- What STATUS reads after the command word `w`. -/
def statusAfter (s : State) (w : Nat) : Option Word := (after s w).map fun t => readCsr .status t

/-- The bytes of SB after the command word `w`. -/
def sbAfter (s : State) (w n : Nat) : Option (List Byte) :=
  (after s w).map fun t => (List.range n).map t.store.sb

/-- The bytes of CW from `i` after the command word `w`. -/
def cwAfter (s : State) (w i n : Nat) : Option (List Byte) := (after s w).map fun t => t.store.cwList i n

/-- The four scores after the command word `w`. -/
def scoresAfter (s : State) (w : Nat) : Option (List Word) :=
  (after s w).map fun t =>
    [t.store.csr.pen1, t.store.csr.pen2, t.store.csr.pen3, t.store.csr.pen4, t.store.csr.pentot]

/-- A module after the command word `w`. -/
def moduleAfter (s : State) (w r c : Nat) : Option Bool := (after s w).map fun t => t.store.plane.module r c

/-! ### WellFormed refuses ill-formed fields (30_encoding.md R117) -/

theorem test_reserved_opcode_is_ill_formed : (Fields.mk 0x05 0 0 0).problem = some .reservedOpc := by decide
theorem test_c_field_is_ill_formed : (Fields.mk 0x00 0 0 1).problem = some .nonzeroC := by decide
theorem test_unused_a_is_ill_formed : (Fields.mk 0x20 1 0 0).problem = some .unusedA := by decide
theorem test_unused_b_is_ill_formed : (Fields.mk 0x02 1 1 0).problem = some .unusedB := by decide

/-! ### Decoding: words written out from 30_encoding.md R110, R113 as C B A OPC -/

theorem test_decode_nop : decode 0b00000000_00000000_00000000_00000000 = .ok .nop := by decide
theorem test_decode_gfmul : decode 0b00000000_11001010_01010011_00000001 = .ok (.gfmul 0x53 0xCA) := by decide
theorem test_decode_gfexp : decode 0b00000000_00000000_11001110_00000010 = .ok (.gfexp 206) := by decide
theorem test_decode_gflog : decode 0b00000000_00000000_01010011_00000011 = .ok (.gflog 0x53) := by decide
theorem test_decode_gfinv : decode 0b00000000_00000000_01010011_00000100 = .ok (.gfinv 0x53) := by decide
theorem test_decode_rsgen : decode 0b00000000_00000000_00000111_00010000 = .ok (.rsgen 7) := by decide
theorem test_decode_rsenc : decode 0b00000000_00010000_00001010_00010001 = .ok (.rsenc 10 16) := by decide
theorem test_decode_rssyn : decode 0b00000000_00011010_00001010_00010010 = .ok (.rssyn 10 26) := by decide
theorem test_decode_eccblk : decode 0b00000000_00000000_00000000_00010011 = .ok .eccblk := by decide
theorem test_decode_mxinit : decode 0b00000000_00000000_00000000_00100000 = .ok .mxinit := by decide
theorem test_decode_mxplace : decode 0b00000000_00000000_00000000_00100001 = .ok .mxplace := by decide
theorem test_decode_mxmask : decode 0b00000000_00000000_00000111_00100010 = .ok (.mxmask 7) := by decide
theorem test_decode_mxscore : decode 0b00000000_00000000_00001000_00100011 = .ok (.mxscore 8) := by decide
theorem test_decode_mxselect : decode 0b00000000_00000000_00000000_00100100 = .ok .mxselect := by decide

/-- V13b, V40, V41. -/
theorem test_decode_refuses :
    decode 0x00010102 = .error .unusedB ∧ decode 0x00000005 = .error .reservedOpc ∧
      decode 0x01000000 = .error .nonzeroC ∧ decode 0x00000120 = .error .unusedA := by decide

theorem test_decode_table_word :
    decodeTableWord 32 0x00CA5301 = some (.gfmul 0x53 0xCA) ∧ decodeTableWord 32 0x00000005 = none := by decide

/-! ### The assembler (30_encoding.md R118) -/

theorem test_assemble_rsenc :
    assemble ['R', 'S', 'E', 'N', 'C', ' ', '1', '0', ',', ' ', '1', '6'] = some 0x00100A11 := by decide
theorem test_assemble_gfmul :
    assemble ['G', 'F', 'M', 'U', 'L', ' ', '0', 'x', '5', '3', ',', ' ', '0', 'x', 'C', 'A'] =
      some 0x00CA5301 := by decide
theorem test_assemble_mxscore_none :
    assemble ['M', 'X', 'S', 'C', 'O', 'R', 'E', ' ', 'n', 'o', 'n', 'e'] = some 0x00000823 := by decide
theorem test_assemble_refuses_256 : assemble ['R', 'S', 'G', 'E', 'N', ' ', '2', '5', '6'] = none := by decide

/-! ### The host notation (30_encoding.md R119, R120) -/

theorem test_mrd_events :
    (HostLine.mrd 8 0).events = [.host (.write 0x44 4 0x0800), .host (.read 0x48 4)] := by decide
theorem test_exec_events :
    (HostLine.exec (.gfmul 0x53 0xCA) 0).events =
      [.host (.write 0x0C 4 0x00CA5301), .engine, .host (.read 0x08 4)] := by decide

/-- 43_matrix.md R219, R220: 30 format modules, and from version 7 on two blocks of 6 × 3 more. -/
theorem test_metadata_modules :
    (metadataModules 6).length = 30 ∧ (metadataModules 7).length = 66 ∧
      (metadataModules 1).take 3 = [(0, 8), (1, 8), (2, 8)] := by decide +kernel
/-- 70_reset_and_hazards.md R326: steps 3 and 7 of a version 1 symbol of 16 data and 10 EC codewords. -/
theorem test_canonical_sequence :
    ((canonicalSequence [] 1 16 0 0 10 1 26 none (fun r c => r = 0 && c = 8) ⟨2, 0, 1, 3⟩).drop 1).take 4 =
        [.wr .layout0 0x00001001, .wr .layout1 10, .exec .eccblk 2, .check] ∧
      ((canonicalSequence [] 1 16 0 0 10 1 26 none (fun r c => r = 0 && c = 8) ⟨2, 0, 1, 3⟩).drop 12).take 5 =
        [.exec .mxselect 3, .check, .rd .result, .mwr 0 8 1, .mwr 1 8 0] := by decide +kernel

/-! ### NOP and GF(256) -/

/-- P3. -/
theorem test_nop_status : statusAfter State.reset 0x00000000 = some 0x00000002 := by decide
/-- V47: a NOP after a failed command clears ERR at its launch and keeps RESULT. -/
theorem test_nop_keeps_result :
    resultAfter (idleWith { Csrs.reset with err := true, errcode := 6, result := 9 } []) 0 = some 9 := by decide
/-- V10. -/
theorem test_gfmul_53_ca : resultAfter State.reset 0x00CA5301 = some 0x8F := by decide
/-- V10b. -/
theorem test_gfmul_ff_ff : resultAfter State.reset 0x00FFFF01 = some 0xE2 := by decide
/-- V11. -/
theorem test_gfexp_254 : resultAfter State.reset 0x0000FE02 = some 0x8E := by decide
/-- V11: e = 255 wraps to α^0. -/
theorem test_gfexp_255 : resultAfter State.reset 0x0000FF02 = some 0x01 := by decide
/-- V12. -/
theorem test_gflog_53 : resultAfter State.reset 0x00005303 = some 206 := by decide
/-- V12a. -/
theorem test_gflog_0 : statusAfter State.reset 0x00000003 = some 0x00000206 := by decide
/-- V13. -/
theorem test_gfinv_53 : resultAfter State.reset 0x00005304 = some 0x8C := by decide
/-- V13a, 60_exceptions.md R292: RESULT unchanged. -/
theorem test_gfinv_0 : resultAfter (idleWith { Csrs.reset with result := 83 } []) 0x00000004 = some 83 := by decide

/-! ### Reed–Solomon -/

/-- V14a. -/
theorem test_rsgen_2 : sbAfter State.reset 0x00000210 3 = some [1, 3, 2] := by decide
/-- V14c. -/
theorem test_rsgen_7 : sbAfter State.reset 0x00000710 8 = some [1, 127, 122, 154, 164, 11, 68, 117] := by
  decide +kernel
/-- V15b. -/
theorem test_rsenc_4_3 :
    cwAfter (idleWith { Csrs.reset with dst := 3 } (cellsFrom 0x2000 [1, 2, 3])) 0x00030411 3 4 =
      some [139, 243, 142, 246] := by decide +kernel
/-- V15d. -/
theorem test_rsenc_range :
    statusAfter (idleWith { Csrs.reset with src := 8190 } []) 0x00030211 = some 0x00000306 := by decide
/-- V16a. -/
theorem test_rssyn_error :
    sbAfter (idleWith Csrs.reset (cellsFrom 0x2000 [1, 2, 0x13, 139, 243, 142, 246])) 0x00070412 4 =
      some [16, 29, 205, 76] := by decide +kernel
/-- V16c. -/
theorem test_rssyn_counts :
    resultAfter (idleWith Csrs.reset (cellsFrom 0x2000 [1, 1])) 0x00020212 = some 1 := by decide +kernel
/-- V17. -/
theorem test_eccblk_two_groups :
    cwAfter (idleWith { Csrs.reset with b1 := 1, k1 := 2, b2 := 1, k2 := 3, nec := 2 }
      (cellsFrom 0x2000 [1, 2, 3, 4, 5])) 0x00000013 4096 9 = some [1, 3, 2, 4, 5, 1, 2, 2, 0] := by
  decide +kernel
/-- V17d. -/
theorem test_eccblk_no_group_1 :
    statusAfter (idleWith { Csrs.reset with k1 := 16 } []) 0x00000013 = some 0x00000406 := by decide

/-! ### The matrix -/

/-- V20's left picture. -/
def initPicture : Plane :=
  picture 21
    ([0b111111100000001111111, 0b100000100000001000001, 0b101110100000001011101, 0b101110100000001011101] ++
     [0b101110100000001011101, 0b100000100000001000001, 0b111111101010101111111, 0b000000000000000000000] ++
     [0b000000100000000000000, 0b000000000000000000000, 0b000000100000000000000, 0b000000000000000000000] ++
     [0b000000100000000000000, 0b000000001000000000000, 0b111111100000000000000, 0b100000100000000000000] ++
     [0b101110100000000000000, 0b101110100000000000000, 0b101110100000000000000, 0b100000100000000000000] ++
     [0b111111100000000000000])

/-- V20's right picture: the function modules. -/
def functionPicture : Plane :=
  picture 21
    ([0b111111111000011111111, 0b111111111000011111111, 0b111111111000011111111, 0b111111111000011111111] ++
     [0b111111111000011111111, 0b111111111000011111111, 0b111111111111111111111, 0b111111111000011111111] ++
     [0b111111111000011111111, 0b000000100000000000000, 0b000000100000000000000, 0b000000100000000000000] ++
     [0b000000100000000000000, 0b111111111000000000000, 0b111111111000000000000, 0b111111111000000000000] ++
     [0b111111111000000000000, 0b111111111000000000000, 0b111111111000000000000, 0b111111111000000000000] ++
     [0b111111111000000000000])

/-- The state in which MXINIT runs for version 1. -/
def versionOne : State := idleWith { Csrs.reset with version := 1 } []

/-- V20. -/
theorem test_mxinit_picture : (after versionOne 0x00000020).map (fun t => t.store.plane) = some initPicture := by
  decide +kernel
/-- V20. -/
theorem test_mxinit_status : statusAfter versionOne 0x00000020 = some 0x01010002 := by decide +kernel
/-- V20: RESULT = DM(1) = 208. -/
theorem test_mxinit_modules : square 21 (isFunc 1) = functionPicture ∧ dataModules 1 = 208 := by decide +kernel
/-- V22. -/
theorem test_alignment_and_version_blocks :
    initModule 2 18 18 = true ∧ initModule 2 17 18 = false ∧ initModule 2 16 16 = true ∧
      initModule 7 6 22 = true ∧ initModule 7 21 22 = false ∧ isFunc 7 5 36 = true ∧
        isFunc 7 0 33 = false := by decide +kernel
/-- V23. -/
theorem test_zigzag_starts :
    (zigzag 1).take 4 = [(20, 20), (20, 19), (19, 20), (19, 19)] ∧
      (zigzag 1).drop 204 = [(11, 1), (11, 0), (12, 1), (12, 0)] := by decide +kernel

/-- V1's 26 codewords at CW[4096]. -/
def helloCells : List Host.Cell :=
  cellsFrom 0x3000
    ([32, 91, 11, 120, 209, 114, 220, 77, 67, 64, 236, 17, 236] ++
     [17, 236, 17, 196, 35, 39, 119, 235, 215, 231, 226, 93, 23])

/-- V24's left picture. -/
def placedPicture : Plane :=
  picture 21
    ([0b111111100000001111111, 0b100000100011001000001, 0b101110100000001011101, 0b101110100111101011101] ++
     [0b101110100001001011101, 0b100000100010001000001, 0b111111101010101111111, 0b000000000101000000000] ++
     [0b000000100110000000000, 0b001011011100010111011, 0b101101110111100001101, 0b101000001100100000100] ++
     [0b111001111111100100000, 0b000000001111011101111, 0b111111100010001111001, 0b100000100011011000010] ++
     [0b101110100110000101010, 0b101110100110000001000, 0b101110100101110111100, 0b100000100100100100001] ++
     [0b111111100111110110100])

/-- V23: the matrix MXINIT leaves, with ARG0 = 4096 and ARG2 = 26. -/
def placeState : State := matrixWith { Csrs.reset with src := 4096, len := 26 } helloCells initPicture

/-- V24's state before masking. -/
def placedState : State := matrixWith Csrs.reset [] placedPicture

/-- V23, V24: the first three modules of the stream, the last one, and RESULT. -/
theorem test_mxplace_modules :
    ((after placeState 0x00000021).map fun t =>
      ([t.store.plane.module 20 20, t.store.plane.module 20 19, t.store.plane.module 19 20,
        t.store.plane.module 12 0], t.store.csr.result)) = some ([false, false, true, true], 0) := by
  decide +kernel
/-- V23: 25 codewords are too few, with STATUS as in V8 and V20. -/
theorem test_mxplace_mismatch :
    statusAfter (matrixWith { Csrs.reset with src := 4096, len := 25 } helloCells initPicture) 0x00000021 =
      some 0x01010706 := by decide +kernel
/-- V25: MXMASK 1. -/
theorem test_mxmask_1 :
    ((after (matrixWith Csrs.reset [] initPicture) 0x00000122).map fun t =>
      [t.store.plane.module 20 20, t.store.plane.module 19 20, t.store.plane.module 10 0,
        t.store.plane.module 9 0]) = some [true, false, true, false] := by decide +kernel
/-- V42. -/
theorem test_mxmask_8 : statusAfter placedState 0x00000822 = some 0x01010206 := by decide +kernel
/-- V24: MXSCORE 8. -/
theorem test_mxscore_unmasked : scoresAfter placedState 0x00000823 = some [214, 192, 160, 0, 566] := by
  decide +kernel
/-- V26d. -/
theorem test_mxscore_one_window :
    scoresAfter (matrixWith Csrs.reset [] (picture 21 [0b101110100000000000000])) 0x00000823 =
      some [786, 1179, 40, 90, 2095] := by decide +kernel
/-- V29: masks 5 and 7 tie at 496 and the lower index wins. -/
theorem test_mxselect_tie :
    (bestOf ⟨0, ⟨506, 0, 0, 0⟩⟩
        [⟨1, ⟨538, 0, 0, 0⟩⟩, ⟨2, ⟨743, 0, 0, 0⟩⟩, ⟨3, ⟨628, 0, 0, 0⟩⟩, ⟨4, ⟨621, 0, 0, 0⟩⟩,
          ⟨5, ⟨193, 183, 120, 0⟩⟩, ⟨6, ⟨713, 0, 0, 0⟩⟩, ⟨7, ⟨496, 0, 0, 0⟩⟩]).index = 5 := by decide
/-- V44. -/
theorem test_mxselect_no_matrix : statusAfter State.reset 0x00000024 = some 0x00000606 := by decide

/-! ### The host's accesses -/

/-- V40. -/
theorem test_badopc : statusAfter State.reset 0x00000005 = some 0x00000106 := by decide
/-- V45. -/
theorem test_badarg_before_nomatrix : statusAfter State.reset 0x00000822 = some 0x00000206 := by decide
/-- V46. -/
theorem test_status_clears_err :
    (writeCsr .status 0x4 (idleWith { Csrs.reset with done := true, err := true, errcode := 6 } [])).store.csr =
      { Csrs.reset with done := true } := by decide
/-- V51, V52, V59, in the state after reset. -/
theorem test_refused_accesses :
    refused (.read 0x0000 1) State.reset ∧ refused (.read 0x0008 2) State.reset ∧
      refused (.read 0x004C 4) State.reset ∧ refused (.read 0x0070 4) State.reset ∧
      refused (.read 0x2001 4) State.reset ∧ refused (.read 0x1001 2) State.reset ∧
      refused (.read 0x0100 1) State.reset ∧ refused (.read 0x4000 1) State.reset ∧
      refused (.read 0x0048 4) State.reset := by decide
/-- V53. -/
theorem test_little_endian :
    (do
      let t ← (hostWrite 0x2000 4 0x780B5B20 State.reset).toOption
      let b0 ← (hostRead 0x2000 1 t).toOption
      let b3 ← (hostRead 0x2003 1 t).toOption
      let h ← (hostRead 0x2002 2 t).toOption
      return [b0, b3, h]) = some [0x20, 0x78, 0x780B] := by decide
/-- V54, V55. -/
theorem test_busy_accesses :
    refused (.read 0x0008 4) (State.reset.launch 0) = false ∧ refused (.read 0x2000 1) (State.reset.launch 0) ∧
      refused (.write 0x000C 4 0) (State.reset.launch 0) ∧ refused (.read 0x0028 4) (State.reset.launch 0) ∧
      refused (.write 0x001C 4 0) (State.reset.launch 0) := by decide
/-- V57. -/
theorem test_irq_on_failure :
    (after (idleWith { Csrs.reset with doneIe := true } []) 0x00000005).map State.irq = some true := by decide
/-- V58. -/
theorem test_soft_reset :
    writeCsr .ctrl 0x80000003 (State.reset.launch 0) = { State.reset with abandons := 1 } := by decide
/-- V60. -/
theorem test_mdata_outside_the_matrix :
    refused (.read 0x0048 4) (matrixWith { Csrs.reset with row := 21 } [] initPicture) ∧
      refused (.read 0x0048 4) (matrixWith { Csrs.reset with row := 20, col := 20 } [] initPicture) = false ∧
      readCsr .mdata (matrixWith { Csrs.reset with row := 13, col := 8 } [] initPicture) = 3 := by
  decide +kernel
/-- V62. -/
theorem test_version_masks_reserved_bits :
    readCsr .version (writeCsr .version 0xFFFFFFFF State.reset) = 0x3F := by decide

/-! ### Witnesses: states and operands that meet the hypotheses of the obligations -/

/-- The state after reset with a word in flight. -/
def inFlight (w : Word) : State := State.reset.launch w

/-- The state after reset with one host access to come. -/
def hostNext (acc : Access) : State := { State.reset with agenda := [.host acc] }

/-- A word in flight and one host access to come. -/
def busyHostNext (w : Word) (acc : Access) : State := { inFlight w with agenda := [.host acc] }

/-- The state MXINIT leaves for version 1. -/
def matrixState : State := matrixWith Csrs.reset [] initPicture

theorem matrixState_square : matrixState.store.plane.isSquare (17 + 4 * matrixState.store.mxver.toNat) :=
  square_isSquare 21 _

/-- The invariant is met by a state with a matrix too. -/
theorem matrixState_inv : Inv matrixState := by
  refine ⟨⟨by decide, by decide, by decide, fun _ => ⟨by decide, by decide, matrixState_square, by decide +kernel⟩,
    ?_, by decide⟩, ?_⟩
  · intro h
    cases h
  · intro w snap h
    cases h

theorem inFlight_inv (w : Word) : Inv (inFlight w) := by
  have st : StoreInv (inFlight w).store :=
    ⟨⟨List.Pairwise.nil, by simp [inFlight, State.launch, State.reset]⟩, iff_of_true rfl rfl, Nat.zero_le 7,
      fun h => (by cases h), fun _ => ⟨rfl, rfl⟩, rfl⟩
  refine ⟨st, ?_⟩
  intro w' snap h
  cases h
  exact ⟨st, rfl, rfl, rfl, rfl⟩

theorem witness_EncodeOfDecodeIsTheWord : decode 0x00CA5301 = .ok (.gfmul 0x53 0xCA) := by decide

/-- One word for each clause of `NoCommand`: a reserved opcode, C, an unused A, an unused B. -/
theorem witness_NoCommand :
    NoCommand 0x00000005 ∧ NoCommand 0x01000000 ∧ NoCommand 0x00000120 ∧ NoCommand 0x00010102 ∧
      ¬ NoCommand 0x00000024 := by
  refine ⟨?_, ?_, ?_, ?_, ?_⟩ <;> unfold NoCommand wordOpc wordA wordB wordC <;> decide

theorem witness_StepRunsTheDecodedCommand :
    (inFlight 0).engine = .busy 0 (inFlight 0).store ∧ decode 0 = .ok .nop ∧ EngineNext (inFlight 0) [] ∧
      EngineNext ((inFlight 0).schedule .engine) [] ∧ State.reset.engine = .idle ∧ EngineNext State.reset [] ∧
      EngineNext (State.reset.schedule .engine) [] :=
  ⟨rfl, by decide, .inl ⟨rfl, rfl⟩, .inr rfl, rfl, .inl ⟨rfl, rfl⟩, .inr rfl⟩

theorem witness_CmdWriteLaunches :
    (hostNext (.write 0x0C 4 5)).engine = .idle ∧
      (hostNext (.write 0x0C 4 5)).agenda = [.host (.write 0x0C 4 5)] := ⟨rfl, rfl⟩

theorem witness_FailedCompletionChangesOnlyStatus :
    (inFlight 0x24).engine = .busy 0x24 (inFlight 0x24).store ∧ EngineNext (inFlight 0x24) [] ∧
      runWord 0x24 (inFlight 0x24).store = .err .nomatrix := ⟨rfl, .inl ⟨rfl, rfl⟩, by decide⟩

theorem witness_NoCommandCompletesWithBadopc :
    (inFlight 5).engine = .busy 5 (inFlight 5).store ∧ EngineNext (inFlight 5) [] ∧ NoCommand 5 := by
  refine ⟨rfl, .inl ⟨rfl, rfl⟩, ?_⟩
  unfold NoCommand wordOpc wordA wordB wordC
  decide

/-- `expectedError` at the boundaries of its ranges, where its clauses meet. -/
theorem witness_CommandErrorsExactly :
    expectedError (.rsenc 1 254) State.reset.store = none ∧ expectedError (.rsenc 1 255) State.reset.store = some 2 ∧
      expectedError (.rsenc 2 3) (idleWith { Csrs.reset with src := 8189, dst := 8190 } []).store = none ∧
      expectedError (.rsenc 2 3) (idleWith { Csrs.reset with src := 8190 } []).store = some 3 ∧
      expectedError (.rsenc 0 0) (idleWith { Csrs.reset with src := 8191 } []).store = some 2 ∧
      expectedError (.rssyn 1 255) State.reset.store = none ∧ expectedError (.rssyn 0 1) State.reset.store = some 2 ∧
      expectedError (.rssyn 1 3) (idleWith { Csrs.reset with src := 8190 } []).store = some 3 ∧
      expectedError .mxinit (idleWith { Csrs.reset with version := 40 } []).store = none ∧
      expectedError .mxinit (idleWith { Csrs.reset with version := 41 } []).store = some 5 ∧
      expectedError .mxinit State.reset.store = some 5 ∧ expectedError (.gflog 0) State.reset.store = some 2 ∧
      expectedError (.gflog 1) State.reset.store = none ∧ expectedError .eccblk State.reset.store = some 4 ∧
      expectedError .eccblk (idleWith { Csrs.reset with b1 := 1, k1 := 254, nec := 1, k2 := 255 } []).store = none ∧
      expectedError .eccblk (idleWith { Csrs.reset with b1 := 1, k1 := 255, nec := 1 } []).store = some 4 ∧
      expectedError .eccblk (idleWith { Csrs.reset with b1 := 1, k1 := 2, b2 := 1, k2 := 1, nec := 1 } []).store =
        some 4 ∧
      expectedError .eccblk (idleWith { Csrs.reset with b1 := 128, k1 := 31, nec := 1 } []).store = none ∧
      expectedError .eccblk (idleWith { Csrs.reset with b1 := 128, k1 := 32, nec := 1 } []).store = some 4 ∧
      expectedError (.mxmask 8) State.reset.store = some 2 ∧ expectedError (.mxmask 7) State.reset.store = some 6 ∧
      expectedError (.mxscore 9) State.reset.store = some 2 ∧ expectedError (.mxscore 8) matrixState.store = none := by
  decide

/-- The three outcomes of MXPLACE's count check, and RANGE before it. -/
theorem witness_CommandErrorsExactly_mxplace :
    expectedError .mxplace placeState.store = none ∧
      expectedError .mxplace (matrixWith { Csrs.reset with len := 25 } [] initPicture).store = some 7 ∧
      expectedError .mxplace (matrixWith { Csrs.reset with len := 27 } [] initPicture).store = some 7 ∧
      expectedError .mxplace (matrixWith { Csrs.reset with src := 8180, len := 26 } [] initPicture).store = some 3 := by
  decide +kernel

theorem witness_CompletionLeavesOperandsAlone : ∃ t, exec (.gflog 0) State.reset = .next t := ⟨_, exec_eq _ _⟩

theorem witness_RunReadsNeitherFlagsNorEnables :
    SameButFlagsAndEnables State.reset.store
        { State.reset.store with csr := { Csrs.reset with doneIe := true, err := true, errcode := 3 } } ∧
      Inv (inFlight 0) ∧ (inFlight 0).engine = .busy 0 (inFlight 0).store := ⟨rfl, inFlight_inv 0, rfl⟩

theorem witness_StepKeepsTheInvariant : ∃ t, Inv (inFlight 0) ∧ step (inFlight 0) = .next t :=
  ⟨_, inFlight_inv 0, exec_eq .nop _⟩

theorem witness_PowerOnReset : ({ inFlight 0 with agenda := [.powerOn] } : State).agenda = [.powerOn] := rfl

theorem witness_SoftResetWhileIdle :
    (hostNext (.write 0x04 4 0x80000003)).engine = .idle ∧ (0x80000003 : Word).getLsbD 31 = true ∧
      (hostNext (.write 0x04 4 0x80000003)).agenda = [.host (.write 0x04 4 0x80000003)] := ⟨rfl, by decide, rfl⟩

/-- RSENC 10, 16 in flight: its destination range is CW[0..9]. -/
theorem witness_SoftResetAbandonsTheCommand :
    (busyHostNext 0x00100A11 (.write 0x04 4 0x80000000)).engine =
        .busy 0x00100A11 (inFlight 0x00100A11).store ∧
      (0x80000000 : Word).getLsbD 31 = true ∧
      (busyHostNext 0x00100A11 (.write 0x04 4 0x80000000)).agenda = [.host (.write 0x04 4 0x80000000)] ∧
      DestinationRange (.rsenc 10 16) (inFlight 0x00100A11).store 0x2009 ∧
      ¬ DestinationRange (.rsenc 10 16) (inFlight 0x00100A11).store 0x200A := by
  refine ⟨rfl, by decide, rfl, ?_, ?_⟩ <;> unfold DestinationRange <;> decide

/-- The first and the last byte of each window, in each width. -/
theorem witness_BufferAccesses :
    State.reset.engine = .idle ∧ InBuffers (0x1000 : Addr).toNat ∧ InBuffers (0x10FF : Addr).toNat ∧
      InBuffers (0x2000 : Addr).toNat ∧ InBuffers (0x3FFC : Addr).toNat ∧ (0x3FFC : Addr).toNat % 4 = 0 ∧
      (0x10FE : Addr).toNat % 2 = 0 ∧ ¬ InBuffers 0x1100 ∧ ¬ InBuffers 0x4000 := by
  unfold InBuffers
  decide

/-- One access for each condition of R82, and one that is not refused. -/
theorem witness_RefusedAccessesExactly :
    RefusalConditions (.read 0x2000 3) State.reset ∧ RefusalConditions (.read 0x2001 4) State.reset ∧
      RefusalConditions (.read 0x0100 4) State.reset ∧ RefusalConditions (.read 0x0008 2) State.reset ∧
      RefusalConditions (.read 0x004C 4) State.reset ∧ RefusalConditions (.read 0x00FC 4) State.reset ∧
      RefusalConditions (.read 0x2000 1) (inFlight 0) ∧ RefusalConditions (.read 0x0048 4) State.reset ∧
      (hostNext (.read 0 4)).agenda = [.host (.read 0 4)] := by
  refine ⟨.inl (by decide), .inr (.inl (by decide)), .inr (.inr (.inl ?_)), .inr (.inr (.inr (.inl (by decide)))),
    .inr (.inr (.inr (.inr (.inl (by decide))))), .inr (.inr (.inr (.inr (.inl (by decide))))),
    .inr (.inr (.inr (.inr (.inr (.inl ⟨⟨_, _, rfl⟩, ?_⟩))))),
    .inr (.inr (.inr (.inr (.inr (.inr ⟨rfl, .inl rfl⟩))))), rfl⟩
  · unfold InBuffers
    decide
  · unfold AllowedWhileBusy
    decide

/-- MDATA with MADDR at the last module of the matrix is no refused access, and one row further it is. -/
theorem witness_RefusedAccessesExactly_mdata :
    ¬ RefusalConditions (.read 0x0048 4) (matrixWith { Csrs.reset with row := 20, col := 20 } [] initPicture) ∧
      MdataClosed (matrixWith { Csrs.reset with row := 21 } [] initPicture).store := by
  refine ⟨?_, .inr (.inl (by decide))⟩
  unfold RefusalConditions
  rintro (h | h | h | h | h | h | h)
  · revert h; decide
  · revert h; decide
  · exact absurd h.1 (by decide)
  · revert h; decide
  · revert h; decide
  · obtain ⟨⟨w, snap, h⟩, -⟩ := h
    cases h
  · rcases h.2 with h | h | h
    · cases h
    · revert h; decide
    · revert h; decide

theorem witness_HostCannotDisturbACommand :
    ∃ t, (busyHostNext 0 (.write 0x08 4 6)).engine = .busy 0 (inFlight 0).store ∧
      (busyHostNext 0 (.write 0x08 4 6)).agenda = [.host (.write 0x08 4 6)] ∧
      step (busyHostNext 0 (.write 0x08 4 6)) = .next t := ⟨_, rfl, rfl, rfl⟩

/-- One read that answers data, and one that is refused. -/
theorem witness_ReadsChangeNothing :
    (hostNext (.read 0x0008 4)).agenda = [.host (.read 0x0008 4)] ∧ hostRead 0x0008 4 State.reset = .ok 0 ∧
      (hostNext (.read 0x2001 2)).agenda = [.host (.read 0x2001 2)] ∧
      hostRead 0x2001 2 State.reset = .error (.busError 0x2001) := ⟨rfl, rfl, rfl, rfl⟩

theorem witness_WritesAreIdempotent :
    ∃ t, (0x2000 : Addr) ≠ 0x0C ∧ hostWrite 0x2000 4 0x780B5B20 State.reset = .ok t := ⟨_, by decide, rfl⟩

theorem witness_CsrWritesReadBack :
    State.reset.engine = .idle ∧ (0x10, 0x3F) ∈ plainCsrs ∧ (0x44, 0xFFFF) ∈ plainCsrs ∧
      0x00 ∈ readOnlyOffsets ∧ 0x6C ∈ readOnlyOffsets := by decide

/-- The first and the last offset of each table, SCORE7, and MDATA at the last module of the version 1 matrix. -/
theorem witness_CsrReadsAnswerTheirValues :
    State.reset.engine = .idle ∧ (0x00, 0x51524331) ∈ readsAtAllTimes (inFlight 0) ∧
      (0x08, 1) ∈ readsAtAllTimes (inFlight 0) ∧ (0x0C, 0) ∈ readsWhileIdle Csrs.reset ∧
      (0x44, 65535) ∈ readsWhileIdle { Csrs.reset with row := 255, col := 255 } ∧
      hostRead 0x6C 4 State.reset = .ok 0 ∧
      ¬ MdataClosed (matrixWith { Csrs.reset with row := 20, col := 20 } [] initPicture).store := by
  refine ⟨rfl, by decide, by decide, by decide, by decide, rfl, ?_⟩
  unfold MdataClosed
  decide

theorem witness_CtrlWriteSetsEnables : ∃ t, (3 : Word).getLsbD 31 = false ∧ hostWrite 0x04 4 3 (inFlight 0) = .ok t :=
  ⟨_, by decide, rfl⟩

/-- At the last module of the version 1 matrix. -/
theorem witness_MdataWritesTheSelectedModule :
    (matrixWith { Csrs.reset with row := 20, col := 20 } [] initPicture).engine = .idle ∧
      ¬ MdataClosed (matrixWith { Csrs.reset with row := 20, col := 20 } [] initPicture).store ∧
      (matrixWith { Csrs.reset with row := 20, col := 20 } [] initPicture).store.plane.isSquare 21 := by
  refine ⟨rfl, ?_, square_isSquare 21 _⟩
  unfold MdataClosed
  decide

theorem witness_GflogAndGfinvResults : (1 : Byte) ≠ 0 ∧ (255 : Byte) ≠ 0 := by decide

theorem witness_RsgenWritesTheGenerator : (255 : Byte) ≠ 0 := by decide

theorem witness_GeneratorIsMonicWithItsRoots : 1 ≤ 255 ∧ 255 ≤ 255 ∧ 254 < 255 := by decide

/-- At the last block that fits: n + k = 255, both ranges ending at CW[8191]. -/
theorem witness_RsencWritesTheEcCodewords :
    (1 : Byte).toNat ≠ 0 ∧ (254 : Byte).toNat ≠ 0 ∧ (1 : Byte).toNat + (254 : Byte).toNat ≤ 255 ∧
      (idleWith { Csrs.reset with src := 7938, dst := 8191 } []).snap.csr.src.toNat + (254 : Byte).toNat ≤ 8192 ∧
      (idleWith { Csrs.reset with src := 7938, dst := 8191 } []).snap.csr.dst.toNat + (1 : Byte).toNat ≤ 8192 := by
  decide

theorem witness_RssynWritesTheSyndromes :
    (255 : Byte).toNat ≠ 0 ∧ (1 : Byte).toNat ≠ 0 ∧
      (idleWith { Csrs.reset with src := 8191 } []).snap.csr.src.toNat + (1 : Byte).toNat ≤ 8192 := by decide

theorem witness_EncodedBlockHasZeroSyndromes : 1 ≤ ([7] : List Byte).length ∧ 1 ≤ 254 ∧ 254 + ([7] : List Byte).length ≤ 255 := by
  decide

/-- V17a's layout. -/
theorem witness_EccblkWritesTheFinalSequence :
    (idleWith { Csrs.reset with b1 := 2, k1 := 2, b2 := 1, k2 := 3, nec := 2 } []).snap.layoutArg.Legal := by decide

/-- A layout with both groups, one codeword in column K1 of group 2 only, and one with no second group. -/
theorem witness_InterleavePositions :
    (⟨2, 2, 1, 3, 2⟩ : Layout).Legal ∧ ([1, 2, 3, 4, 5, 6, 7] : List Byte).length = (⟨2, 2, 1, 3, 2⟩ : Layout).dataTotal ∧
      (⟨1, 2, 0, 0, 2⟩ : Layout).Legal ∧ ([1, 2] : List Byte).length = (⟨1, 2, 0, 0, 2⟩ : Layout).dataTotal := by decide

theorem witness_MxinitBuildsTheMatrix :
    1 ≤ versionOne.snap.csr.version.toNat ∧ versionOne.snap.csr.version.toNat ≤ 40 := by decide

theorem witness_versions :
    1 ≤ 1 ∧ 1 ≤ 40 ∧ 40 ≤ 40 ∧ 176 < 17 + 4 * 40 ∧ (170, 170) ∈ alignCentres 40 ∧ (18, 18) ∈ alignCentres 2 := by decide

/-- Two modules of a pair in one row, across two rows of an upward and of a downward pair, and across column 6. -/
theorem witness_VisitedBefore :
    VisitedBefore 1 (20, 20) (20, 19) ∧ VisitedBefore 1 (20, 19) (19, 20) ∧ VisitedBefore 1 (9, 17) (10, 18) ∧
      VisitedBefore 1 (12, 7) (9, 5) ∧ VisitedBefore 1 (12, 2) (9, 1) ∧ ¬ VisitedBefore 1 (9, 5) (12, 7) := by
  unfold VisitedBefore
  decide

/-- Formulas 0 to 3 of R251 at a module where each is true and one where it is false. -/
theorem witness_MaskTrue :
    maskTrue 0 1 1 ∧ !maskTrue 0 1 0 ∧ maskTrue 1 2 1 ∧ !maskTrue 1 1 2 ∧ maskTrue 2 1 3 ∧ !maskTrue 2 3 1 ∧
      maskTrue 3 1 2 ∧ !maskTrue 3 1 3 := by decide

/-- Formulas 4 to 7 likewise; there is no formula 8. -/
theorem witness_MaskTrue_high :
    maskTrue 4 1 2 ∧ !maskTrue 4 1 3 ∧ maskTrue 5 2 3 ∧ !maskTrue 5 2 2 ∧ maskTrue 6 1 1 ∧ !maskTrue 6 2 2 ∧
      maskTrue 7 0 0 ∧ !maskTrue 7 1 1 ∧ !maskTrue 8 0 0 := by decide

theorem witness_MxplacePlacesTheBits :
    placeState.snap.mxvalid = true ∧ 1 ≤ placeState.snap.mxver.toNat ∧ placeState.snap.mxver.toNat ≤ 40 ∧
      placeState.snap.csr.src.toNat + placeState.snap.csr.len.toNat ≤ 8192 ∧
      placeState.snap.csr.len.toNat = dataModules placeState.snap.mxver.toNat / 8 ∧
      placeState.store.plane.isSquare (17 + 4 * placeState.snap.mxver.toNat) :=
  ⟨by decide, by decide, by decide, by decide, by decide +kernel, square_isSquare 21 _⟩

theorem witness_MatrixCommands :
    (7 : Byte).toNat ≤ 7 ∧ (8 : Byte).toNat ≤ 8 ∧ matrixState.snap.mxvalid = true ∧ matrixState.engine = .idle ∧
      matrixState.store.mxvalid = true ∧
      matrixState.store.plane.isSquare (17 + 4 * matrixState.store.mxver.toNat) :=
  ⟨by decide, by decide, rfl, rfl, rfl, matrixState_square⟩

theorem witness_PenaltyBounds : 177 ≤ 177 ∧ Plane.isSquare (square 177 fun _ _ => true) 177 :=
  ⟨by decide, square_isSquare 177 _⟩

/-- A run of 5 that ends a line is maximal, its first 4 modules are no maximal run, and a line of one colour is one run.
-/
theorem witness_maximalRun :
    maximalRun 7 (fun i => 2 ≤ i) 2 5 ∧ !maximalRun 7 (fun i => 2 ≤ i) 2 4 ∧ maximalRun 7 (fun i => 2 ≤ i) 0 2 ∧
      maximalRun 5 (fun _ => true) 0 5 ∧ runScore 7 (fun i => 2 ≤ i) = 3 ∧ runScore 4 (fun _ => true) = 0 := by
  decide +kernel

/-- A pattern at the last start of a line, and P_B at the first. -/
theorem witness_finderLike :
    finderScore 12 (fun i => i ∈ [1, 3, 4, 5, 7]) = 40 ∧ finderScore 11 (fun i => i ∈ [1, 3, 4, 5, 7]) = 0 ∧
      finderScore 11 (fun i => i ∈ [4, 6, 7, 8, 10]) = 40 := by decide +kernel

/-- 44_mask.md R256: a uniform 3 × 3 area holds four windows, the last one at row and column 1. -/
theorem witness_PenaltyRulesInNumbers :
    Plane.isSquare (square 3 fun _ _ => true) 3 ∧ (1, 1) ∈ uniformWindows 3 (square 3 fun _ _ => true) ∧
      (uniformWindows 3 (square 3 fun _ _ => true)).card = 4 ∧ (darkModules 3 (square 3 fun _ _ => true)).card = 9 :=
  ⟨square_isSquare 3 _, by decide +kernel⟩

theorem witness_OnlyMxinitChangesFunctionModules :
    ∃ t, Inv matrixState ∧ Instr.mxmask 3 ≠ .mxinit ∧ exec (.mxmask 3) matrixState = .next t ∧
      matrixState.store.mxvalid = true ∧ 20 < 17 + 4 * matrixState.store.mxver.toNat ∧
      isFunc matrixState.store.mxver.toNat 20 6 = true :=
  ⟨_, matrixState_inv, by decide, exec_eq _ _, rfl, by decide, by decide⟩

/-- All three cases of the latch: kept, cleared, set. -/
theorem witness_LatchChangesByMxinitOrReset :
    ∃ t u v, step (inFlight 0) = .next t ∧ step ({ matrixState with agenda := [.powerOn] } : State) = .next u ∧
      step ((versionOne.launch 0x20).schedule .engine) = .next v := ⟨_, _, _, exec_eq .nop _, rfl, exec_eq .mxinit _⟩

theorem witness_ResultsChangeOnlyBySuccessOrReset :
    ∃ ws, (inFlight 0x00CA5301).engine = .busy 0x00CA5301 (inFlight 0x00CA5301).store ∧
      runWord 0x00CA5301 (inFlight 0x00CA5301).store = .ok ws := ⟨_, rfl, rfl⟩

end Sys2Proof.Tests
end

/-!
PROOFS. What one step can do to the machine, as one relation, and the statements that follow from it case by case: the
invariant, the matrix latch and the result registers.
-/

namespace Sys2Proof.Machine

/-! ### What one step can do -/

/-- What one step does to a state whose agenda has already moved on: one constructor for each kind of event, and for a
host access one for each kind of answer (60_exceptions.md R294). -/
inductive Happens (s : State) : State → Prop
  /-- The engine has its turn while IDLE. -/
  | waits (idle : s.engine = .idle) : Happens s s
  /-- The engine completes the command in flight. -/
  | completes {w : Word} {snap : Store} (busy : s.engine = .busy w snap) : Happens s (s.finish (runWord w snap))
  /-- A read, or a refused access. -/
  | answers (r : Answer) : Happens s (s.answer r)
  /-- A write to a buffer. -/
  | writesBytes {a : Addr} {n : Nat} {v : Word} (allowed : refused (.write a n v) s = false)
      (noCsr : csrAt a.toNat = none) :
      Happens s (State.answer { s with store := { s.store with mem := s.store.mem.writeLe a.toNat n v } } .written)
  /-- A write to a CSR. -/
  | writesCsr {a : Addr} {n : Nat} {v : Word} {r : Csr} (allowed : refused (.write a n v) s = false)
      (csr : csrAt a.toNat = some r) : Happens s ((writeCsr r v s).answer .written)
  /-- The platform's power-on reset. -/
  | powersOn : Happens s s.powerOnReset

theorem engineTurn_happens {s t : State} (h : engineTurn s = .next t) : Happens s t := by
  cases he : s.engine with
  | idle =>
    rw [engineTurn_idle he] at h
    cases h
    exact .waits he
  | busy w snap =>
    rw [engineTurn_busy he] at h
    cases h
    exact .completes he

theorem access_happens (s : State) (acc : Access) : Happens s (s.access acc) := by
  obtain ⟨r, h⟩ | ⟨a, n, v, rfl, allowed, ⟨noCsr, h⟩ | ⟨r, csr, h⟩⟩ := access_cases s acc
  · rw [h]; exact .answers r
  · rw [h]; exact .writesBytes allowed noCsr
  · rw [h]; exact .writesCsr allowed csr

/-- Every step takes its event off the agenda and then does one of the things of `Happens`. -/
theorem step_happens {s t : State} (h : step s = .next t) : ∃ agenda, Happens { s with agenda := agenda } t := by
  obtain ⟨_, e⟩ | ⟨rest, _, e⟩ | ⟨acc, rest, _, e⟩ | ⟨rest, _, e⟩ := step_cases s
  · exact ⟨s.agenda, engineTurn_happens (e ▸ h)⟩
  · exact ⟨rest, engineTurn_happens (e ▸ h)⟩
  · cases e ▸ h
    exact ⟨rest, access_happens _ acc⟩
  · cases e ▸ h
    exact ⟨rest, .powersOn⟩

/-! ### The run of a word -/

/-- A word runs to success only as the command it decodes to. -/
theorem runWord_ok {w : Word} {snap : Store} {ws : Writes} (h : runWord w snap = .ok ws) :
    ∃ i, decode w = .ok i ∧ runInstr i snap = .ok ws := by
  unfold runWord at h
  split at h
  case h_1 i hi => exact ⟨i, hi, h⟩
  case h_2 => cases h

/-- The bytes a soft reset leaves unspecified are buffer bytes (70_reset_and_hazards.md R323). -/
theorem pendingWrites_bytes (w : Word) (snap : Store) :
    ∀ p ∈ (pendingWrites w snap).bytes, isBufferAddr p.1 = true := by
  unfold pendingWrites
  split
  case h_1 ws h =>
    obtain ⟨i, -, hi⟩ := runWord_ok h
    exact runInstr_bytes hi
  case h_2 => simp [Writes.bytes]

/-! ### The soft reset -/

@[simp] theorem State.softReset_engine (s : State) : s.softReset.engine = .idle := by
  cases h : s.engine <;> simp [State.softReset, h]

/-- A soft reset resets the CSRs and the latch of a store whose buffers are as before, or as the abandonment of the
command in flight leaves them (70_reset_and_hazards.md R322, R323). -/
theorem State.softReset_store (s : State) :
    s.softReset.store = s.store.resetCsrs ∨
      ∃ w snap, s.softReset.store = (s.store.abandon (pendingWrites w snap) s.abandons).resetCsrs := by
  cases h : s.engine with
  | idle => exact .inl (by rw [State.softReset_idle h])
  | busy w snap => exact .inr ⟨w, snap, by rw [State.softReset_busy h]⟩

@[simp] theorem State.softReset_csr (s : State) : s.softReset.store.csr = Csrs.reset := by
  obtain h | ⟨_, _, h⟩ := s.softReset_store <;> rw [h] <;> rfl

@[simp] theorem State.softReset_mxvalid (s : State) : s.softReset.store.mxvalid = false := by
  obtain h | ⟨_, _, h⟩ := s.softReset_store <;> rw [h] <;> rfl

@[simp] theorem State.softReset_mxver (s : State) : s.softReset.store.mxver = 0 := by
  obtain h | ⟨_, _, h⟩ := s.softReset_store <;> rw [h] <;> rfl

/-! ### Writes that keep the results -/

/-- The registers that hold a command's results are the same: RESULT, DMCOUNT, PEN1–PEN4, PENTOT and SCORE0–SCORE7
(10_state.md R47–R49, R53). -/
structure Csrs.SameResults (c c' : Csrs) : Prop where
  result : c'.result = c.result
  dmcount : c'.dmcount = c.dmcount
  pen1 : c'.pen1 = c.pen1
  pen2 : c'.pen2 = c.pen2
  pen3 : c'.pen3 = c.pen3
  pen4 : c'.pen4 = c.pen4
  pentot : c'.pentot = c.pentot
  scores : c'.scores = c.scores

namespace Csrs.SameResults

/-- The registers one by one, as `Obligations.ResultsChangeOnlyBySuccessOrReset` names them. -/
theorem parts {c c' : Csrs} (h : SameResults c c') :
    c'.result = c.result ∧ c'.dmcount = c.dmcount ∧ c'.pen1 = c.pen1 ∧ c'.pen2 = c.pen2 ∧ c'.pen3 = c.pen3 ∧
      c'.pen4 = c.pen4 ∧ c'.pentot = c.pentot ∧ c'.scores = c.scores :=
  ⟨h.result, h.dmcount, h.pen1, h.pen2, h.pen3, h.pen4, h.pentot, h.scores⟩

theorem refl (c : Csrs) : SameResults c c := ⟨rfl, rfl, rfl, rfl, rfl, rfl, rfl, rfl⟩

theorem writeStatus (c : Csrs) (v : Word) : SameResults c (c.writeStatus v) :=
  ⟨rfl, rfl, rfl, rfl, rfl, rfl, rfl, rfl⟩

theorem writeEnables (c : Csrs) (v : Word) : SameResults c (c.writeEnables v) :=
  ⟨rfl, rfl, rfl, rfl, rfl, rfl, rfl, rfl⟩

theorem clearFlags (c : Csrs) : SameResults c c.clearFlags := ⟨rfl, rfl, rfl, rfl, rfl, rfl, rfl, rfl⟩

theorem setError (c : Csrs) (e : ErrCode) : SameResults c (c.setError e) :=
  ⟨rfl, rfl, rfl, rfl, rfl, rfl, rfl, rfl⟩

theorem writeOperand (c : Csrs) (r : Csr) (v : Word) : SameResults c (c.writeOperand r v) := by
  cases r <;> exact ⟨rfl, rfl, rfl, rfl, rfl, rfl, rfl, rfl⟩

end Csrs.SameResults

/-- A write to an operand CSR leaves the flags alone. -/
theorem Csrs.writeOperand_flags (c : Csrs) (r : Csr) (v : Word) :
    (c.writeOperand r v).done = c.done ∧ (c.writeOperand r v).err = c.err ∧
      (c.writeOperand r v).errcode = c.errcode := by
  cases r <;> exact ⟨rfl, rfl, rfl⟩

/-- A write to CTRL with bit 31 set is the soft reset (10_state.md R37). -/
theorem writeCsr_ctrl_reset {v : Word} (s : State) (hv : v.getLsbD 31 = true) : writeCsr .ctrl v s = s.softReset :=
  if_pos hv

/-- A write to CTRL with bit 31 clear sets the enables (10_state.md R36). -/
theorem writeCsr_ctrl_enables {v : Word} (s : State) (hv : v.getLsbD 31 = false) :
    writeCsr .ctrl v s = { s with store := { s.store with csr := s.store.csr.writeEnables v } } :=
  if_neg (ne_true_of_eq_false hv)

/-! ### The store's invariant, one lemma for each change of the store -/

namespace StoreInv

variable {st : Store}

/-- A change of the CSRs that keeps the results and leaves ERR and ERRCODE consistent. -/
theorem withCsr (h : StoreInv st) {c : Csrs} (same : st.csr.SameResults c)
    (errcode : c.err = false ↔ c.errcode = 0) (codes : c.errcode.toNat ≤ 7) : StoreInv { st with csr := c } where
  memory := h.memory
  errcode := errcode
  codes := codes
  latched := fun hv => by
    obtain ⟨h1, h40, hsq, hdm⟩ := h.latched hv
    exact ⟨h1, h40, hsq, same.dmcount ▸ hdm⟩
  unlatched := fun hv => ⟨(h.unlatched hv).1, same.dmcount.trans (h.unlatched hv).2⟩
  pentot := by
    rw [same.pentot, same.pen1, same.pen2, same.pen3, same.pen4]
    exact h.pentot

theorem writeEnables (h : StoreInv st) (v : Word) : StoreInv { st with csr := st.csr.writeEnables v } :=
  h.withCsr (.writeEnables _ v) h.errcode h.codes

/-- A write to STATUS clears ERR and ERRCODE together (10_state.md R39). -/
theorem writeStatus (h : StoreInv st) (v : Word) : StoreInv { st with csr := st.csr.writeStatus v } := by
  refine h.withCsr (.writeStatus _ v) ?_ ?_ <;>
    simp only [Csrs.writeStatus_err, Csrs.writeStatus_errcode] <;> cases v.getLsbD 2
  · simpa using h.errcode
  · simp
  · exact h.codes
  · exact Nat.zero_le 7

theorem clearFlags (h : StoreInv st) : StoreInv { st with csr := st.csr.clearFlags } :=
  h.withCsr (.clearFlags _) (iff_of_true rfl rfl) (Nat.zero_le 7)

theorem setError (h : StoreInv st) (e : ErrCode) : StoreInv { st with csr := st.csr.setError e } :=
  h.withCsr (.setError _ e) (iff_of_false Bool.true_eq_false.mp e.code_ne_zero) e.code_le

theorem writeOperand (h : StoreInv st) (r : Csr) (v : Word) :
    StoreInv { st with csr := st.csr.writeOperand r v } := by
  obtain ⟨-, herr, hcode⟩ := st.csr.writeOperand_flags r v
  exact h.withCsr (.writeOperand _ r v) (by rw [herr, hcode]; exact h.errcode) (by rw [hcode]; exact h.codes)

theorem withMem (h : StoreInv st) {m : Memory} (hm : m.wf) : StoreInv { st with mem := m } where
  memory := hm
  errcode := h.errcode
  codes := h.codes
  latched := h.latched
  unlatched := h.unlatched
  pentot := h.pentot

theorem writeMdata (h : StoreInv st) (v : Word) : StoreInv (st.writeMdata v) where
  memory := h.memory
  errcode := h.errcode
  codes := h.codes
  latched := fun hv => by
    obtain ⟨h1, h40, hsq, hdm⟩ := h.latched hv
    exact ⟨h1, h40, hsq.setModule _ _ _, hdm⟩
  unlatched := h.unlatched
  pentot := h.pentot

/-- A reset needs nothing but buffers in canonical form (70_reset_and_hazards.md R321, R322). -/
theorem resetCsrs (hm : st.mem.wf) : StoreInv st.resetCsrs where
  memory := hm
  errcode := iff_of_true rfl rfl
  codes := Nat.zero_le 7
  latched := fun hv => absurd hv Bool.false_ne_true
  unlatched := fun _ => ⟨rfl, rfl⟩
  pentot := rfl

theorem softReset {s : State} (h : StoreInv s.store) : StoreInv s.softReset.store := by
  obtain e | ⟨w, snap, e⟩ := s.softReset_store <;> rw [e]
  · exact resetCsrs h.memory
  · refine resetCsrs (Memory.wf_setBytes _ _ h.memory fun p hp => ?_)
    obtain ⟨q, hq, rfl⟩ := List.mem_map.mp hp
    exact pendingWrites_bytes w snap q hq

theorem powerOnReset (s : State) : StoreInv s.powerOnReset.store :=
  resetCsrs (st := s.powerOnReset.store) ⟨.nil, by simp [State.powerOnReset]⟩

/-- PENTOT is the sum of the four penalty registers after a command's writes too (44_mask.md R259). -/
theorem apply_pentot (h : StoreInv st) (w : Writes) :
    (st.csr.apply w).pentot =
      (st.csr.apply w).pen1 + (st.csr.apply w).pen2 + (st.csr.apply w).pen3 + (st.csr.apply w).pen4 := by
  cases hp : w.penalty with
  | none => simpa [hp] using h.pentot
  | some p => simp [hp, Penalty.total, BitVec.ofNat_add]

/-- A successful MXINIT latches a legal version with its square and its count of data modules (43_matrix.md R211). -/
theorem apply_mxinit (h : StoreInv st) {snap : Store} {w : Writes} (hr : runInstr .mxinit snap = .ok w) :
    StoreInv { st.apply w with csr := (st.csr.apply w).setDone } := by
  obtain ⟨h1, h40, hlatch, hdm, p, hwhole, hsq⟩ := writes_mxinit hr
  exact
    { memory := Memory.wf_setBytes _ _ h.memory (runInstr_bytes hr)
      errcode := h.errcode
      codes := h.codes
      latched := fun _ => by
        simp only [Store.matrixVersion, Store.apply_mxver, Store.apply_plane, Csrs.setDone_dmcount,
          Csrs.apply_dmcount, hlatch, hdm, hwhole, Option.getD_some, BitVec.toNat_ofNat,
          Nat.mod_eq_of_lt (dataModules_lt h40)]
        exact ⟨h1, h40, hsq.setModules _, trivial⟩
      unlatched := fun hv => by simp [hlatch] at hv
      pentot := h.apply_pentot w }

/-- Any other successful command keeps the latch and DMCOUNT, and the square of the version it ran on. -/
theorem apply_not_mxinit (h : StoreInv st) {snap : Store} {i : Instr} {w : Writes} (hi : i ≠ .mxinit)
    (hr : runInstr i snap = .ok w) (hver : snap.mxver = st.mxver) :
    StoreInv { st.apply w with csr := (st.csr.apply w).setDone } := by
  obtain ⟨hlatch, hdm, hwhole⟩ := writes_not_mxinit hr hi
  have hplane (hsq : st.plane.isSquare (sideLength st.matrixVersion)) :
      (w.whole.getD st.plane).isSquare (sideLength st.matrixVersion) := by
    cases hw : w.whole with
    | none => exact hsq
    | some p => rw [Store.matrixVersion, ← hver]; exact hwhole p hw
  exact
    { memory := Memory.wf_setBytes _ _ h.memory (runInstr_bytes hr)
      errcode := h.errcode
      codes := h.codes
      latched := fun hv => by
        obtain ⟨h1, h40, hsq, hcount⟩ := h.latched (by simpa [hlatch] using hv)
        simp only [Store.matrixVersion, Store.apply_mxver, Store.apply_plane, Csrs.setDone_dmcount,
          Csrs.apply_dmcount, hlatch, hdm, Option.getD_none]
        exact ⟨h1, h40, (hplane hsq).setModules _, hcount⟩
      unlatched := fun hv => by simpa [hlatch, hdm] using h.unlatched (by simpa [hlatch] using hv)
      pentot := h.apply_pentot w }

/-- A completion on a snapshot with the store's matrix version. -/
theorem finish {s : State} (h : StoreInv s.store) {snap : Store} (hver : snap.mxver = s.store.mxver) (w : Word) :
    StoreInv (s.finish (runWord w snap)).store := by
  cases hr : runWord w snap with
  | err e => exact h.setError e
  | ok ws =>
    obtain ⟨i, -, hi⟩ := runWord_ok hr
    by_cases hm : i = .mxinit
    · subst hm
      exact h.apply_mxinit hi
    · exact h.apply_not_mxinit hm hi hver

end StoreInv

/-! ### Which accesses pass -/

/-- The conditions of 20_memory.md R82 the other way round: what lets an access pass. -/
theorem refused_eq_false_iff (acc : Access) (s : State) :
    refused acc s = false ↔
      (acc.width = 1 ∨ acc.width = 2 ∨ acc.width = 4) ∧ acc.addr.toNat % acc.width = 0 ∧
        regionOf acc.addr.toNat ≠ .unmapped ∧
        (regionOf acc.addr.toNat = .csrWindow → acc.width = 4 ∧ csrAt acc.addr.toNat ≠ none) ∧
        (s.engine.isBusy = true → busyAllows acc = true) ∧
        (csrAt acc.addr.toNat = some .mdata → s.store.mdataOpen = true) := by
  simp only [refused, Bool.or_eq_false_iff, Bool.and_eq_false_imp, Bool.not_eq_false', decide_eq_true_eq,
    decide_eq_false_iff_not, Bool.and_eq_true, ne_eq, not_not, imp_and, and_assoc]
  exact and_congr_left' (by omega)

/-- While BUSY a write that is not refused is one to CTRL or STATUS (20_memory.md R89). -/
theorem busy_write_allowed {s : State} {a : Addr} {n : Nat} {v : Word} (hbusy : s.engine.isBusy = true)
    (h : refused (.write a n v) s = false) : csrAt a.toNat = some .ctrl ∨ csrAt a.toNat = some .status := by
  obtain ⟨-, -, -, -, hallow, -⟩ := (refused_eq_false_iff _ _).mp h
  have hallow := hallow hbusy
  unfold busyAllows at hallow
  split at hallow
  case h_4 _ hc => exact .inl hc
  case h_5 _ hc => exact .inr hc
  all_goals contradiction

/-- A write that is neither refused nor to a CSR stays inside one buffer window: the windows start and end at
multiples of 4 (20_memory.md R81, R82). -/
theorem write_in_buffer {s : State} {a : Addr} {n j : Nat} {v : Word} (h : refused (.write a n v) s = false)
    (hcsr : csrAt a.toNat = none) (hj : j < n) : isBufferAddr (a.toNat + j) = true := by
  obtain ⟨hn, halign, hmapped, hwindow, -, -⟩ := (refused_eq_false_iff _ _).mp h
  simp only [Access.addr, Access.width] at hn halign hmapped hwindow
  have hbuffer : isBufferAddr a.toNat = true := by
    unfold regionOf at hmapped hwindow
    split_ifs at hmapped hwindow with hlow hb
    · exact absurd hcsr (hwindow rfl).2
    · exact hb
    · exact absurd rfl hmapped
  rw [isBufferAddr_iff] at hbuffer ⊢
  rcases hn with rfl | rfl | rfl <;> omega

/-! ### The machine's invariant -/

/-- Nothing of the invariant is about the agenda or the answers. -/
theorem Inv.congr {s t : State} (h : Inv s) (hstore : t.store = s.store) (hengine : t.engine = s.engine) : Inv t where
  store := hstore ▸ h.store
  inFlight := by
    rw [hstore, hengine]
    exact h.inFlight

/-- While IDLE the invariant is the store's. -/
theorem Inv.of_idle {s : State} (h : StoreInv s.store) (hidle : s.engine = .idle) : Inv s where
  store := h
  inFlight := fun w snap hbusy => by
    rw [hidle] at hbusy
    cases hbusy

/-- With the flags clear a write to STATUS changes nothing. -/
theorem Csrs.writeStatus_of_clear {c : Csrs} (hdone : c.done = false) (herr : c.err = false) (hcode : c.errcode = 0)
    (v : Word) : c.writeStatus v = c := by
  cases c
  subst hdone herr hcode
  simp [Csrs.writeStatus]

/-- While BUSY the store has the flags and the latch of the snapshot. -/
theorem Inv.busy_store {s : State} (h : Inv s) {w : Word} {snap : Store} (hbusy : s.engine = .busy w snap) :
    s.store.csr.done = false ∧ s.store.csr.err = false ∧ s.store.csr.errcode = 0 ∧ snap.mxver = s.store.mxver := by
  obtain ⟨-, hdone, herr, hcode, hdiff⟩ := h.inFlight w snap hbusy
  rw [hdiff]
  exact ⟨hdone, herr, hcode, rfl⟩

/-- A write to CTRL's enables, IDLE or BUSY (10_state.md R36). -/
theorem Inv.writeEnables {s : State} (h : Inv s) (v : Word) :
    Inv { s with store := { s.store with csr := s.store.csr.writeEnables v } } where
  store := h.store.writeEnables v
  inFlight := fun w snap hbusy => by
    obtain ⟨hsnap, hdone, herr, hcode, hdiff⟩ := h.inFlight w snap hbusy
    refine ⟨hsnap, hdone, herr, hcode, ?_⟩
    unfold Store.onlyEnablesDiffer at hdiff ⊢
    rw [hdiff]
    rfl

/-- A write to STATUS, IDLE or BUSY (10_state.md R39). -/
theorem Inv.writeStatus {s : State} (h : Inv s) (v : Word) :
    Inv { s with store := { s.store with csr := s.store.csr.writeStatus v } } where
  store := h.store.writeStatus v
  inFlight := fun w snap hbusy => by
    obtain ⟨hdone, herr, hcode, -⟩ := h.busy_store hbusy
    rw [Csrs.writeStatus_of_clear hdone herr hcode v]
    exact h.inFlight w snap hbusy

/-- A launch takes its snapshot of the store it leaves (40_control.md R141). -/
theorem Inv.launch {s : State} (h : Inv s) (w : Word) : Inv (s.launch w) where
  store := h.store.clearFlags
  inFlight := fun w' snap hbusy => by
    cases hbusy
    exact ⟨h.store.clearFlags, rfl, rfl, rfl, rfl⟩

/-- A write to a CSR: any while IDLE, CTRL and STATUS at all times. -/
theorem Inv.writeCsr {s : State} (h : Inv s) (r : Csr) (v : Word)
    (hallowed : s.engine.isBusy = true → r = .ctrl ∨ r = .status) : Inv (writeCsr r v s) := by
  by_cases hctrl : r = .ctrl
  · subst hctrl
    cases hv : v.getLsbD 31
    · rw [writeCsr_ctrl_enables s hv]
      exact h.writeEnables v
    · rw [writeCsr_ctrl_reset s hv]
      exact .of_idle h.store.softReset s.softReset_engine
  by_cases hstatus : r = .status
  · subst hstatus
    exact h.writeStatus v
  have hidle : s.engine = .idle := by
    cases he : s.engine with
    | idle => rfl
    | busy w snap => exact absurd (hallowed (by rw [he]; rfl)) (not_or.mpr ⟨hctrl, hstatus⟩)
  cases r with
  | ctrl => exact absurd rfl hctrl
  | status => exact absurd rfl hstatus
  | cmd => exact h.launch v
  | mdata => exact .of_idle (h.store.writeMdata v) hidle
  | _ => exact .of_idle (h.store.writeOperand _ v) hidle

/-- A write to a buffer, which happens only while IDLE. -/
theorem Inv.writeLe {s : State} (h : Inv s) {a : Addr} {n : Nat} {v : Word}
    (hallowed : refused (.write a n v) s = false) (hcsr : csrAt a.toNat = none) :
    Inv { s with store := { s.store with mem := s.store.mem.writeLe a.toNat n v } } := by
  have hidle : s.engine = .idle := by
    cases he : s.engine with
    | idle => rfl
    | busy w snap => simpa [hcsr] using busy_write_allowed (by rw [he]; rfl) hallowed
  refine .of_idle (h.store.withMem (Memory.wf_setBytes _ _ h.store.memory fun p hp => ?_)) hidle
  obtain ⟨j, hj, rfl⟩ := (leBytes_mem _ _ _ _).mp hp
  exact write_in_buffer hallowed hcsr hj

/-- Whatever happens keeps the invariant. -/
theorem Happens.inv {s t : State} (h : Happens s t) (hs : Inv s) : Inv t := by
  cases h with
  | waits => exact hs
  | completes hbusy =>
    obtain ⟨-, -, -, hver⟩ := hs.busy_store hbusy
    exact .of_idle (hs.store.finish hver _) (s.finish_frame _).1
  | answers r => exact hs.congr rfl rfl
  | writesBytes hallowed hcsr => exact (hs.writeLe hallowed hcsr).congr rfl rfl
  | @writesCsr a n v r hallowed hcsr =>
    refine (hs.writeCsr r v fun hbusy => ?_).congr rfl rfl
    simpa [hcsr] using busy_write_allowed hbusy hallowed
  | powersOn => exact .of_idle (StoreInv.powerOnReset s) rfl

/-- Settles O13: what one step does is one of the cases of `Happens`, and each keeps the invariant. -/
theorem stepKeepsTheInvariant : Obligations.StepKeepsTheInvariant := by
  intro s t hs hstep
  obtain ⟨agenda, h⟩ := step_happens hstep
  exact h.inv (hs.congr rfl rfl)

/-- Settles O14: after reset the buffers list no cell, every CSR and the latch are 0 and the engine is IDLE. -/
theorem resetMeetsTheInvariant : Obligations.ResetMeetsTheInvariant :=
  .of_idle (StoreInv.resetCsrs (st := State.reset.store) State.reset_memory_wf) rfl

/-! ### The matrix latch -/

/-- Only the soft reset, which resets every CSR with it, changes the latch among the CSR writes (10_state.md R58,
70_reset_and_hazards.md R322). -/
theorem writeCsr_latch (r : Csr) (v : Word) (s : State) :
    ((writeCsr r v s).store.mxvalid = s.store.mxvalid ∧ (writeCsr r v s).store.mxver = s.store.mxver) ∨
      ((writeCsr r v s).store.mxvalid = false ∧ (writeCsr r v s).store.mxver = 0 ∧
        (writeCsr r v s).store.csr = Csrs.reset) := by
  cases r with
  | ctrl =>
    cases hv : v.getLsbD 31
    · rw [writeCsr_ctrl_enables s hv]
      exact .inl ⟨rfl, rfl⟩
    · rw [writeCsr_ctrl_reset s hv]
      exact .inr ⟨s.softReset_mxvalid, s.softReset_mxver, s.softReset_csr⟩
  | _ => exact .inl ⟨rfl, rfl⟩

/-- A completion changes the latch only by the success of an MXINIT, which latches the version of its snapshot
(43_matrix.md R211). -/
theorem finish_latch (s : State) (w : Word) (snap : Store) :
    ((s.finish (runWord w snap)).store.mxvalid = s.store.mxvalid ∧
        (s.finish (runWord w snap)).store.mxver = s.store.mxver) ∨
      (decode w = .ok .mxinit ∧ (s.finish (runWord w snap)).store.mxvalid = true ∧
        (s.finish (runWord w snap)).store.mxver = snap.csr.version) := by
  cases hr : runWord w snap with
  | err e => exact .inl ⟨rfl, rfl⟩
  | ok ws =>
    obtain ⟨i, hdecode, hi⟩ := runWord_ok hr
    by_cases hm : i = .mxinit
    · subst hm
      obtain ⟨-, -, hlatch, -⟩ := writes_mxinit hi
      exact .inr ⟨hdecode, by simp [hlatch], by simp [hlatch]⟩
    · obtain ⟨hlatch, -⟩ := writes_not_mxinit hi hm
      exact .inl ⟨by simp [hlatch], by simp [hlatch]⟩

/-- Settles O56: of all that can happen in a step only a reset and the completion of an MXINIT touch the latch. -/
theorem latchChangesByMxinitOrReset : Obligations.LatchChangesByMxinitOrReset := by
  intro s t hstep
  obtain ⟨agenda, h⟩ := step_happens hstep
  cases h with
  | waits => exact .inl ⟨rfl, rfl⟩
  | @completes w snap hbusy =>
    exact (finish_latch _ w snap).imp id fun h => .inr ⟨w, snap, hbusy, h⟩
  | answers => exact .inl ⟨rfl, rfl⟩
  | writesBytes => exact .inl ⟨rfl, rfl⟩
  | @writesCsr a n v r => exact (writeCsr_latch r v { s with agenda := agenda }).imp id .inl
  | powersOn => exact .inr (.inl ⟨rfl, rfl, rfl⟩)

/-! ### The result registers -/

/-- Among the CSR writes only the soft reset changes a result register (10_state.md R33, R47–R49, R53). -/
theorem writeCsr_sameResults (r : Csr) (v : Word) (s : State) :
    s.store.csr.SameResults (writeCsr r v s).store.csr ∨ (writeCsr r v s).store.csr = Csrs.reset := by
  cases r with
  | ctrl =>
    cases hv : v.getLsbD 31
    · rw [writeCsr_ctrl_enables s hv]
      exact .inl (.writeEnables _ v)
    · rw [writeCsr_ctrl_reset s hv]
      exact .inr s.softReset_csr
  | status => exact .inl (.writeStatus _ v)
  | cmd => exact .inl (.clearFlags _)
  | mdata => exact .inl (.refl _)
  | _ => exact .inl ⟨rfl, rfl, rfl, rfl, rfl, rfl, rfl, rfl⟩

/-- Settles O57: the CSR writes but the soft reset and a failed completion keep the result registers; what is left
is a reset or a completion with success. -/
theorem resultsChangeOnlyBySuccessOrReset : Obligations.ResultsChangeOnlyBySuccessOrReset := by
  intro s t hstep
  obtain ⟨agenda, h⟩ := step_happens hstep
  suffices hcases : s.store.csr.SameResults t.store.csr ∨ t.store.csr = Csrs.reset ∨
      ∃ w snap ws, s.engine = .busy w snap ∧ runWord w snap = .ok ws ∧ t.engine = .idle ∧
        t.store.csr.done = true from hcases.imp_left Csrs.SameResults.parts
  cases h with
  | waits => exact .inl (.refl _)
  | @completes w snap hbusy =>
    cases hr : runWord w snap with
    | err e => exact .inl (.setError _ e)
    | ok ws => exact .inr (.inr ⟨w, snap, ws, hbusy, hr, rfl, rfl⟩)
  | answers => exact .inl (.refl _)
  | writesBytes => exact .inl (.refl _)
  | @writesCsr a n v r => exact (writeCsr_sameResults r v { s with agenda := agenda }).imp id .inl
  | powersOn => exact .inr (.inl rfl)

end Sys2Proof.Machine

/-!
PROOFS. What the host reads of a CSR as a number, which accesses of a CSR pass, and the statements about reads and
writes of CSRs.
-/

namespace Sys2Proof.Machine

/-! ### Fields of a word as numbers -/

/-- Fields that do not overlap add up. -/
theorem toNat_or_field {lo hi : Word} {a i k : Nat} (hlo : lo.toNat = a) (hhi : hi.toNat = 2 ^ i * k)
    (ha : a < 2 ^ i) : (lo ||| hi).toNat = a + 2 ^ i * k := by
  rw [BitVec.toNat_or, hlo, hhi, Nat.or_comm, ← Nat.two_pow_add_eq_or_of_lt ha, Nat.add_comm]

theorem bitAt_toNat (b : Bool) {i : Nat} (hi : i < 32) : (bitAt b i).toNat = 2 ^ i * b.toNat := by
  have hlt : 2 ^ i < 2 ^ 32 := Nat.pow_lt_pow_right (by decide) hi
  cases b
  · simp [bitAt]
  · rw [bitAt, if_pos rfl, BitVec.toNat_ofNat, Nat.mod_eq_of_lt hlt, Bool.toNat_true, Nat.mul_one]

theorem getLsbD_bitAt (b : Bool) (i j : Nat) : (bitAt b i).getLsbD j = (b && decide (j < 32) && decide (i = j)) := by
  cases b
  · simp [bitAt]
  · rw [bitAt, if_pos rfl, BitVec.getLsbD_ofNat, Nat.testBit_two_pow, Bool.true_and]

/-- A field of n bits put at bit i. -/
theorem shifted_toNat {n i : Nat} (x : BitVec n) (h : n + i ≤ 32) :
    (x.setWidth 32 <<< i).toNat = 2 ^ i * x.toNat := by
  have hlt : x.toNat * 2 ^ i < 2 ^ 32 :=
    calc x.toNat * 2 ^ i < 2 ^ n * 2 ^ i := Nat.mul_lt_mul_of_pos_right x.isLt (Nat.two_pow_pos i)
      _ = 2 ^ (n + i) := (Nat.pow_add 2 n i).symm
      _ ≤ 2 ^ 32 := Nat.pow_le_pow_right (by decide) h
  rw [BitVec.toNat_shiftLeft, BitVec.toNat_setWidth_of_le (by omega), Nat.shiftLeft_eq, Nat.mod_eq_of_lt hlt,
    Nat.mul_comm]

/-- Masking with n ones is taking the number modulo 2^n. -/
theorem and_ones_toNat (v : Word) {n : Nat} (h : n ≤ 32) :
    (v &&& BitVec.ofNat 32 (2 ^ n - 1)).toNat = v.toNat % 2 ^ n := by
  have : 2 ^ n - 1 < 2 ^ 32 :=
    Nat.lt_of_lt_of_le (Nat.sub_lt (Nat.two_pow_pos n) Nat.one_pos) (Nat.pow_le_pow_right (by decide) h)
  rw [BitVec.toNat_and, BitVec.toNat_ofNat, Nat.mod_eq_of_lt this, Nat.and_two_pow_sub_one_eq_mod]

/-- A register of n bits keeps the low n bits of what is written to it. -/
theorem setWidth_eq_and_ones (v : Word) {n : Nat} (h : n ≤ 32) :
    (v.setWidth n).setWidth 32 = v &&& BitVec.ofNat 32 (2 ^ n - 1) := by
  apply BitVec.eq_of_toNat_eq
  rw [and_ones_toNat v h, BitVec.toNat_setWidth_of_le h, BitVec.toNat_setWidth]

theorem getLsbD_toNat (v : Word) (i : Nat) : (v.getLsbD i).toNat = v.toNat / 2 ^ i % 2 := by
  rw [← BitVec.testBit_toNat, Nat.toNat_testBit]

/-! ### What STATUS, CTRL and MDATA read -/

theorem ctrlWord_toNat (c : Csrs) : (ctrlWord c).toNat = c.doneIe.toNat + 2 * c.errIe.toNat := by
  have hdone := c.doneIe.toNat_lt
  have h1 := toNat_or_field (bitAt_toNat c.doneIe (i := 0) (by decide)) (bitAt_toNat c.errIe (i := 1) (by decide))
    (by omega)
  rw [ctrlWord, h1]
  omega

theorem readMdata_toNat (st : Store) :
    st.readMdata.toNat =
      (st.plane.module st.csr.row.toNat st.csr.col.toNat).toNat +
        2 * (isFunc st.mxver.toNat st.csr.row.toNat st.csr.col.toNat).toNat := by
  have hmodule := (st.plane.module st.csr.row.toNat st.csr.col.toNat).toNat_lt
  have h1 := toNat_or_field
    (bitAt_toNat (st.plane.module st.csr.row.toNat st.csr.col.toNat) (i := 0) (by decide))
    (bitAt_toNat (isFunc st.mxver.toNat st.csr.row.toNat st.csr.col.toNat) (i := 1) (by decide)) (by omega)
  simp only [Store.readMdata, h1]
  omega

/-- The fields of STATUS from the lowest up, each above all before it (10_state.md R34, R38). -/
theorem statusWord_toNat (s : State) :
    (statusWord s).toNat =
      s.engine.isBusy.toNat + 2 * s.store.csr.done.toNat + 4 * s.store.csr.err.toNat +
        256 * s.store.csr.errcode.toNat + 65536 * s.store.mxvalid.toNat + 16777216 * s.store.mxver.toNat := by
  have hbusy := s.engine.isBusy.toNat_lt
  have hdone := s.store.csr.done.toNat_lt
  have herr := s.store.csr.err.toNat_lt
  have hcode := s.store.csr.errcode.isLt
  have hvalid := s.store.mxvalid.toNat_lt
  have h1 := toNat_or_field (bitAt_toNat s.engine.isBusy (i := 0) (by decide))
    (bitAt_toNat s.store.csr.done (i := 1) (by decide)) (by omega)
  have h2 := toNat_or_field h1 (bitAt_toNat s.store.csr.err (i := 2) (by decide)) (by omega)
  have h3 := toNat_or_field h2 (shifted_toNat s.store.csr.errcode (i := 8) (by decide)) (by omega)
  have h4 := toNat_or_field h3 (bitAt_toNat s.store.mxvalid (i := 16) (by decide)) (by omega)
  have h5 := toNat_or_field h4 (shifted_toNat s.store.mxver (i := 24) (by decide)) (by omega)
  rw [statusWord, h5]
  omega

theorem statusWord_done (s : State) : (statusWord s).getLsbD 1 = s.store.csr.done := by
  simp only [statusWord, BitVec.getLsbD_or, getLsbD_bitAt, BitVec.getLsbD_shiftLeft]
  simp

theorem statusWord_err (s : State) : (statusWord s).getLsbD 2 = s.store.csr.err := by
  simp only [statusWord, BitVec.getLsbD_or, getLsbD_bitAt, BitVec.getLsbD_shiftLeft]
  simp

theorem ctrlWord_doneIe (c : Csrs) : (ctrlWord c).getLsbD 0 = c.doneIe := by
  simp only [ctrlWord, BitVec.getLsbD_or, getLsbD_bitAt]
  simp

theorem ctrlWord_errIe (c : Csrs) : (ctrlWord c).getLsbD 1 = c.errIe := by
  simp only [ctrlWord, BitVec.getLsbD_or, getLsbD_bitAt]
  simp

/-- The enables that a written word sets read back as its two low bits (10_state.md R36, R37). -/
theorem ctrlWord_writeEnables (c : Csrs) (v : Word) : ctrlWord (c.writeEnables v) = v &&& 3 := by
  apply BitVec.eq_of_toNat_eq
  rw [ctrlWord_toNat, Csrs.writeEnables_doneIe, Csrs.writeEnables_errIe, getLsbD_toNat, getLsbD_toNat]
  have hmask := and_ones_toNat v (n := 2) (by decide)
  change (v &&& 3).toNat = v.toNat % 4 at hmask
  omega

/-! ### Accesses of a CSR that pass -/

theorem Csr.offset_toNat (r : Csr) : r.offset.toNat < 0x100 ∧ r.offset.toNat % 4 = 0 := by
  cases r with
  | score k => decide +revert
  | _ => decide

/-- The map of 10_state.md R34 read backwards: a CSR stands at its offset only. -/
theorem csrAt_some {a : Addr} {r : Csr} (h : csrAt a.toNat = some r) : a = r.offset := by
  apply BitVec.eq_of_toNat_eq
  unfold csrAt at h
  split at h <;> cases h
  all_goals assumption

theorem mdataOpen_iff (st : Store) : st.mdataOpen = true ↔ ¬ MdataClosed st := by
  simp only [Store.mdataOpen, MdataClosed, Bool.and_eq_true, decide_eq_true_eq, not_or, not_le, and_assoc,
    Bool.not_eq_false]

/-- A 4-byte access of a CSR passes while IDLE, or where 20_memory.md R89 allows it while BUSY; MDATA needs a selected
module as well (20_memory.md R82). -/
theorem csr_access_allowed {acc : Access} {r : Csr} {s : State} (haddr : acc.addr = r.offset) (hwidth : acc.width = 4)
    (hbusy : s.engine = .idle ∨ busyAllows acc = true) (hmdata : r = .mdata → s.store.mdataOpen = true) :
    refused acc s = false := by
  obtain ⟨hlow, halign⟩ := r.offset_toNat
  rw [refused_eq_false_iff, haddr, hwidth, csrAt_offset]
  have hregion : regionOf r.offset.toNat = .csrWindow := if_pos hlow
  refine ⟨by decide, halign, by simp [hregion], by simp, fun hb => ?_, fun hr => hmdata (Option.some.inj hr)⟩
  refine hbusy.resolve_left fun hidle => ?_
  simp [hidle, Engine.isBusy] at hb

theorem hostRead_csr (r : Csr) {s : State} (hbusy : s.engine = .idle ∨ busyAllows (.read r.offset 4) = true)
    (hmdata : r = .mdata → s.store.mdataOpen = true) : hostRead r.offset 4 s = .ok (readCsr r s) := by
  simp [hostRead, csr_access_allowed (acc := .read r.offset 4) rfl rfl hbusy hmdata, csrAt_offset]

theorem hostWrite_csr (r : Csr) (v : Word) {s : State}
    (hbusy : s.engine = .idle ∨ busyAllows (.write r.offset 4 v) = true)
    (hmdata : r = .mdata → s.store.mdataOpen = true) : hostWrite r.offset 4 v s = .ok (writeCsr r v s) := by
  simp [hostWrite, csr_access_allowed (acc := .write r.offset 4 v) rfl rfl hbusy hmdata, csrAt_offset]

/-- A write to CTRL at any time (20_memory.md R89). -/
theorem hostWrite_ctrl (v : Word) (s : State) : hostWrite 0x04 4 v s = .ok (writeCsr .ctrl v s) :=
  hostWrite_csr .ctrl v (.inr rfl) nofun

/-- A write to STATUS at any time (20_memory.md R89). -/
theorem hostWrite_status (v : Word) (s : State) : hostWrite 0x08 4 v s = .ok (writeCsr .status v s) :=
  hostWrite_csr .status v (.inr rfl) nofun

/-- Two states that differ in their CSRs only answer a read alike, unless the read is of MDATA or of a CSR that they
hold differently. -/
theorem hostRead_congr_csrs {s t : State} (hst : t = { s with store := { s.store with csr := t.store.csr } })
    {a : Addr} (n : Nat) (ha : a ≠ 0x48) (hsame : ∀ r, csrAt a.toNat = some r → readCsr r t = readCsr r s) :
    hostRead a n t = hostRead a n s := by
  have hrefused : refused (.read a n) t = refused (.read a n) s := by
    refine refused_congr _ _ _ (by rw [hst]) fun hr => ?_
    exact absurd (csrAt_some hr) ha
  have hmem : t.store.mem = s.store.mem := by rw [hst]
  unfold hostRead
  rw [hrefused, hmem]
  cases hr : csrAt a.toNat with
  | none => rfl
  | some r => simp only [hsame r hr]

/-! ### CTRL, STATUS and the interrupt line -/

/-- Settles O25: the write passes at all times and, bit 31 being clear, is the one of `Csrs.writeEnables`. -/
theorem ctrlWriteSetsEnables : Obligations.CtrlWriteSetsEnables := by
  intro s v hv
  have hwrite := hostWrite_ctrl v s
  rw [writeCsr_ctrl_enables s hv] at hwrite
  refine ⟨hwrite, fun t ht => ?_⟩
  cases hwrite.symm.trans ht
  exact ctrlWord_writeEnables s.store.csr v

/-- Settles O26: the write passes at all times and is the one of `Csrs.writeStatus`. -/
theorem statusIsWriteOneToClear : Obligations.StatusIsWriteOneToClear := by
  intro s v
  exact ⟨_, hostWrite_status v s, rfl, by simp [writeCsr], by simp [writeCsr], fun hv => if_pos hv,
    fun hv => if_neg (ne_true_of_eq_false hv)⟩

/-- Settles O27: the number of STATUS is the sum of its fields. -/
theorem statusReadsItsFields : Obligations.StatusReadsItsFields := by
  intro s
  have h := statusWord_toNat s
  cases he : s.engine <;> rw [he] at h <;> exact h

/-- Settles O29: bits 1 and 2 of STATUS are DONE and ERR, bits 0 and 1 of CTRL their enables. -/
theorem irqFollowsTheFourBits : Obligations.IrqFollowsTheFourBits := by
  intro s
  simp only [readCsr, statusWord_done, statusWord_err, ctrlWord_doneIe, ctrlWord_errIe]
  rfl

/-! ### The plain and the read-only CSRs -/

/-- Every plain CSR but MADDR and LAYOUT0 is one field from bit 0 up; those two are made of bytes. In each the bits of
its mask, and no others, are kept (10_state.md R34, R41–R46, R50). -/
theorem plainCsr_spec : ∀ p ∈ plainCsrs, ∃ r : Csr, p.1 = r.offset ∧ r ≠ .mdata ∧
    (∀ v s, writeCsr r v s = { s with store := { s.store with csr := s.store.csr.writeOperand r v } }) ∧
    ∀ v s, readCsr r (writeCsr r v s) = v &&& p.2 := by
  simp only [plainCsrs, List.forall_mem_cons, List.not_mem_nil, IsEmpty.forall_iff,
    implies_true, and_true]
  refine ⟨⟨.version, rfl, nofun, fun _ _ => rfl, fun v _ => setWidth_eq_and_ones v (n := 6) (by decide)⟩,
    ⟨.layout0, rfl, nofun, fun _ _ => rfl, fun v _ => ?_⟩,
    ⟨.layout1, rfl, nofun, fun _ _ => rfl, fun v _ => setWidth_eq_and_ones v (n := 8) (by decide)⟩,
    ⟨.arg0, rfl, nofun, fun _ _ => rfl, fun v _ => setWidth_eq_and_ones v (n := 13) (by decide)⟩,
    ⟨.arg1, rfl, nofun, fun _ _ => rfl, fun v _ => setWidth_eq_and_ones v (n := 13) (by decide)⟩,
    ⟨.arg2, rfl, nofun, fun _ _ => rfl, fun v _ => setWidth_eq_and_ones v (n := 14) (by decide)⟩,
    ⟨.maddr, rfl, nofun, fun _ _ => rfl, fun v _ => ?_⟩⟩
  · exact (packBytes_extract v).trans BitVec.and_allOnes.symm
  · apply BitVec.eq_of_toNat_eq
    have hmask := and_ones_toNat v (n := 16) (by decide)
    change (packBytes (v.extractLsb' 0 8) (v.extractLsb' 8 8) 0 0).toNat = _
    rw [packBytes_toNat, extract_toNat, extract_toNat]
    exact Eq.trans (by simp; omega) hmask.symm

/-- A write to an operand CSR changes what no other CSR but MDATA reads. -/
theorem readCsr_writeOperand_of_ne {r r' : Csr} (h : r' ≠ r) (hmdata : r' ≠ .mdata) (v : Word) (s : State) :
    readCsr r' { s with store := { s.store with csr := s.store.csr.writeOperand r v } } = readCsr r' s := by
  cases r with
  | version | layout0 | layout1 | arg0 | arg1 | arg2 | maddr =>
    -- r' reads another field, or is the register written, or is MDATA
    cases r' <;> first | rfl | contradiction
  | _ => rfl

/-- The CSRs marked RO in 10_state.md R34. -/
def readOnlyCsrs : List Csr :=
  [.id, .result, .dmcount, .pen1, .pen2, .pen3, .pen4, .pentot] ++ (List.finRange 8).map .score

theorem readOnlyOffsets_eq : readOnlyOffsets = readOnlyCsrs.map Csr.offset := by decide

/-- A read-only CSR ignores a write (10_state.md R33). -/
theorem writeCsr_readOnly {r : Csr} (h : r ∈ readOnlyCsrs) (v : Word) (s : State) :
    r ≠ .mdata ∧ writeCsr r v s = s := by
  cases r with
  | id | result | dmcount | pen1 | pen2 | pen3 | pen4 | pentot | score => exact ⟨nofun, rfl⟩
  | _ => simp [readOnlyCsrs] at h

/-- Settles O24: a plain CSR keeps the bits of its mask and no other CSR shows the write; a read-only CSR ignores
it. -/
theorem csrWritesReadBack : Obligations.CsrWritesReadBack := by
  intro s v hidle
  constructor
  · intro p hp
    obtain ⟨r, hoffset, hmdata, hwrite, hread⟩ := plainCsr_spec p hp
    rw [hoffset]
    refine ⟨_, hostWrite_csr r v (.inl hidle) (absurd · hmdata), ?_, by rw [hwrite], fun a n ha ha' => ?_⟩
    · rw [hostRead_csr r (.inl (by rw [hwrite]; exact hidle)) (absurd · hmdata), hread]
    · rw [hwrite]
      refine hostRead_congr_csrs rfl n ha' fun r' hr' => readCsr_writeOperand_of_ne ?_ ?_ v s
      · rintro rfl
        exact ha (csrAt_some hr')
      · rintro rfl
        exact ha' (csrAt_some hr')
  · intro a ha
    rw [readOnlyOffsets_eq] at ha
    obtain ⟨r, hr, rfl⟩ := List.mem_map.mp ha
    obtain ⟨hmdata, hwrite⟩ := writeCsr_readOnly hr v s
    rw [hostWrite_csr r v (.inl hidle) (absurd · hmdata), hwrite]

/-! ### Every CSR's value -/

/-- A CSR whose number is known answers it while it may be read. -/
theorem hostRead_toNat (r : Csr) {s : State} {k : Nat}
    (hbusy : s.engine = .idle ∨ busyAllows (.read r.offset 4) = true) (hmdata : r = .mdata → s.store.mdataOpen = true)
    (hk : (readCsr r s).toNat = k) : ∃ d, hostRead r.offset 4 s = .ok d ∧ d.toNat = k :=
  ⟨_, hostRead_csr r hbusy hmdata, hk⟩

/-- ID, CTRL and STATUS at all times (10_state.md R35, R36, R38). -/
theorem readsAtAllTimes_answered (s : State) :
    ∀ p ∈ readsAtAllTimes s, ∃ d, hostRead p.1 4 s = .ok d ∧ d.toNat = p.2 := by
  simp only [readsAtAllTimes, List.forall_mem_cons, List.not_mem_nil, IsEmpty.forall_iff,
    implies_true, and_true]
  exact ⟨hostRead_toNat .id (.inr rfl) nofun rfl,
    hostRead_toNat .ctrl (.inr rfl) nofun (ctrlWord_toNat _),
    hostRead_toNat .status (.inr rfl) nofun (statusReadsItsFields s)⟩

/-- The CSRs the host reads while IDLE: a field of n bits is its number, a register of bytes the sum of them. -/
theorem readsWhileIdle_answered {s : State} (hidle : s.engine = .idle) :
    ∀ p ∈ readsWhileIdle s.store.csr, ∃ d, hostRead p.1 4 s = .ok d ∧ d.toNat = p.2 := by
  have field {n : Nat} (b : BitVec n) (h : n ≤ 32) : (b.setWidth 32).toNat = b.toNat := BitVec.toNat_setWidth_of_le h
  simp only [readsWhileIdle, List.forall_mem_append, List.forall_mem_cons, List.not_mem_nil, IsEmpty.forall_iff,
    implies_true, and_true]
  refine ⟨⟨hostRead_toNat .cmd (.inl hidle) nofun rfl,
    hostRead_toNat .version (.inl hidle) nofun (field _ (by decide)),
    hostRead_toNat .layout0 (.inl hidle) nofun (packBytes_toNat _ _ _ _),
    hostRead_toNat .layout1 (.inl hidle) nofun (field _ (by decide)),
    hostRead_toNat .arg0 (.inl hidle) nofun (field _ (by decide)),
    hostRead_toNat .arg1 (.inl hidle) nofun (field _ (by decide)),
    hostRead_toNat .arg2 (.inl hidle) nofun (field _ (by decide)),
    hostRead_toNat .result (.inl hidle) nofun rfl,
    hostRead_toNat .dmcount (.inl hidle) nofun (field _ (by decide))⟩,
    hostRead_toNat .pen1 (.inl hidle) nofun rfl, hostRead_toNat .pen2 (.inl hidle) nofun rfl,
    hostRead_toNat .pen3 (.inl hidle) nofun rfl, hostRead_toNat .pen4 (.inl hidle) nofun rfl,
    hostRead_toNat .pentot (.inl hidle) nofun rfl,
    hostRead_toNat .maddr (.inl hidle) nofun (packBytes_toNat _ _ 0 0)⟩

theorem scoreOffset_eq (k : Fin 8) : BitVec.ofNat 16 (0x50 + 4 * k.val) = (Csr.score k).offset := by decide +revert

/-- MDATA answers the selected module and its function bit (10_state.md R51). -/
theorem hostRead_mdata {s : State} (hidle : s.engine = .idle) (hopen : ¬ MdataClosed s.store) :
    ∃ d, hostRead 0x48 4 s = .ok d ∧
      d.toNat = (s.store.plane.module s.store.csr.row.toNat s.store.csr.col.toNat).toNat +
        2 * (isFunc s.store.mxver.toNat s.store.csr.row.toNat s.store.csr.col.toNat).toNat :=
  hostRead_toNat .mdata (.inl hidle) (fun _ => (mdataOpen_iff _).mpr hopen) (readMdata_toNat _)

/-- Settles O58: every access passes and answers `readCsr`, whose number is the sum of the register's fields. -/
theorem csrReadsAnswerTheirValues : Obligations.CsrReadsAnswerTheirValues := by
  intro s
  refine ⟨readsAtAllTimes_answered s, fun hidle => ⟨readsWhileIdle_answered hidle, fun k => ?_, hostRead_mdata hidle⟩⟩
  rw [scoreOffset_eq]
  exact hostRead_csr (.score k) (.inl hidle) nofun

/-- Settles O28: the selected module lies in the square, so the write sets it; MADDR and the latch are as before, so
the read finds the same module. -/
theorem mdataWritesTheSelectedModule : Obligations.MdataWritesTheSelectedModule := by
  intro s v hidle hopen hsq
  have hmodule : (s.store.writeMdata v).plane.module s.store.csr.row.toNat s.store.csr.col.toNat = v.getLsbD 0 := by
    unfold MdataClosed at hopen
    refine Plane.module_setModule_same _ _ _ _ ?_
    rw [hsq.row_length (by omega)]
    omega
  refine ⟨_, hostWrite_csr .mdata v (.inl hidle) (fun _ => (mdataOpen_iff _).mpr hopen), rfl, hmodule,
    fun r c hne => Plane.module_setModule_other _ _ _ _ _ _ hne, ?_⟩
  rw [← hmodule]
  exact hostRead_mdata (s := writeCsr .mdata v s) hidle hopen

end Sys2Proof.Machine

/-!
PROOFS. When a host access is refused, in numbers, what a write that passes does, and the statements about host accesses
and about what a completion leaves alone.
-/

namespace Sys2Proof.Machine

/-! ### The step of a host access -/

theorem step_host {s : State} {acc : Access} {rest : List Event} (h : s.agenda = .host acc :: rest) :
    step s = .next (State.access { s with agenda := rest } acc) := by
  simp only [step, nextEvent, h, State.event]

theorem hostRead_refused {s : State} {a : Addr} {n : Nat} (h : refused (.read a n) s = true) :
    hostRead a n s = .error (.busError a) := if_pos h

theorem hostWrite_refused {s : State} {a : Addr} {n : Nat} {v : Word} (h : refused (.write a n v) s = true) :
    hostWrite a n v s = .error (.busError a) := if_pos h

/-- A read that passes answers data. -/
theorem hostRead_passes {s : State} {a : Addr} {n : Nat} (h : refused (.read a n) s = false) :
    ∃ v, hostRead a n s = .ok v := by
  cases hr : csrAt a.toNat <;> simp [hostRead, h, hr]

/-- The bus error of a refused access carries the access's address (60_exceptions.md R290). -/
theorem access_refused {s : State} {acc : Access} (h : refused acc s = true) :
    s.access acc = s.answer (.error (.busError acc.addr)) := by
  cases acc with
  | read a n => exact State.access_read_error (hostRead_refused h)
  | write a n v => exact State.access_write_error (hostWrite_refused h)

/-! ### The conditions of refusal in numbers -/

theorem isBusy_iff (e : Engine) : e.isBusy = true ↔ ∃ w snap, e = .busy w snap := by
  cases e <;> simp [Engine.isBusy]

theorem regionOf_csrWindow_iff (a : Nat) : regionOf a = .csrWindow ↔ a < 0x100 := by
  unfold regionOf
  split_ifs with hlow <;> simp [hlow]

theorem regionOf_ne_unmapped_iff (a : Nat) : regionOf a ≠ .unmapped ↔ ¬ (0x100 ≤ a ∧ ¬ InBuffers a) := by
  have hbuffer : isBufferAddr a = true ↔ InBuffers a := isBufferAddr_iff a
  unfold regionOf
  split_ifs with hlow hb
  · simp [hlow]
  · simp [hbuffer.mp hb]
  · simp [mt hbuffer.mpr hb, not_lt.mp hlow]

/-- The unassigned offsets of the CSR window (10_state.md R33, R34). -/
theorem csrAt_eq_none_iff {a : Nat} (hlow : a < 0x100) (halign : a % 4 = 0) :
    csrAt a = none ↔ a = 0x4C ∨ 0x70 ≤ a := by
  have hword : ∀ k < 64, csrAt (4 * k) = none ↔ 4 * k = 0x4C ∨ 0x70 ≤ 4 * k := by decide
  have := hword (a / 4) (by omega)
  rwa [Nat.mul_div_cancel' (Nat.dvd_of_mod_eq_zero halign)] at this

/-- A CSR stands at its offset and nowhere else (10_state.md R34). -/
theorem csrAt_eq_some_iff (a : Addr) (r : Csr) : csrAt a.toNat = some r ↔ a.toNat = r.offset.toNat :=
  ⟨fun h => by rw [csrAt_some h], fun h => by rw [h, csrAt_offset]⟩

theorem busyAllows_iff (acc : Access) : busyAllows acc = true ↔ AllowedWhileBusy acc := by
  cases acc with
  | read a n =>
    have hallows : busyAllows (.read a n) = true ↔
        csrAt a.toNat = some .id ∨ csrAt a.toNat = some .ctrl ∨ csrAt a.toNat = some .status := by
      simp only [busyAllows, Access.addr]
      split <;> simp_all
    rw [hallows, csrAt_eq_some_iff, csrAt_eq_some_iff, csrAt_eq_some_iff]
    rfl
  | write a n v =>
    have hallows : busyAllows (.write a n v) = true ↔
        csrAt a.toNat = some .ctrl ∨ csrAt a.toNat = some .status := by
      simp only [busyAllows, Access.addr]
      split <;> simp_all
    rw [hallows, csrAt_eq_some_iff, csrAt_eq_some_iff]
    rfl

/-- In the CSR window an aligned access must be 4 bytes wide and its offset assigned (20_memory.md R82). -/
theorem csrWindow_iff {a n : Nat} (halign : a % n = 0) :
    (a < 0x100 → n = 4 ∧ csrAt a ≠ none) ↔ ¬ (a < 0x100 ∧ n ≠ 4) ∧ ¬ (a < 0x100 ∧ (a = 0x4C ∨ 0x70 ≤ a)) := by
  by_cases hlow : a < 0x100
  · by_cases hn : n = 4
    · subst hn
      simp only [hlow, Ne, csrAt_eq_none_iff hlow halign, true_and, forall_const, not_true_eq_false, not_false_eq_true]
    · simp [hlow, hn]
  · simp [hlow]

/-- The model refuses an access exactly under the conditions of 20_memory.md R82. -/
theorem refused_iff (acc : Access) (s : State) : refused acc s = true ↔ RefusalConditions acc s := by
  have hmdata : Csr.mdata.offset.toNat = 0x48 := rfl
  have hwidth : (acc.width = 1 ∨ acc.width = 2 ∨ acc.width = 4) ↔
      ¬ (acc.width ≠ 1 ∧ acc.width ≠ 2 ∧ acc.width ≠ 4) := by omega
  rw [← not_iff_not, Bool.not_eq_true, refused_eq_false_iff, hwidth, regionOf_ne_unmapped_iff,
    regionOf_csrWindow_iff, isBusy_iff, busyAllows_iff, mdataOpen_iff, csrAt_eq_some_iff, hmdata,
    ← not_and_not_right (b := AllowedWhileBusy acc),
    ← not_and (b := MdataClosed s.store)]
  simp only [RefusalConditions, not_or, not_ne_iff]
  refine and_congr_right fun _ => and_congr_right fun halign => and_congr_right fun _ => ?_
  rw [csrWindow_iff halign, and_assoc]

/-! ### A write that passes -/

/-- What a write does once it passes: the CSR at its address takes the value, or the buffer bytes do (20_memory.md
R85, R86). -/
def State.written (s : State) (a : Addr) (n : Nat) (v : Word) : State :=
  match csrAt a.toNat with
  | some r => writeCsr r v s
  | none => { s with store := { s.store with mem := s.store.mem.writeLe a.toNat n v } }

theorem State.written_csr {s : State} {a : Addr} {n : Nat} {v : Word} {r : Csr} (h : csrAt a.toNat = some r) :
    s.written a n v = writeCsr r v s := by
  simp only [State.written, h]

theorem State.written_buffer {s : State} {a : Addr} {n : Nat} {v : Word} (h : csrAt a.toNat = none) :
    s.written a n v = { s with store := { s.store with mem := s.store.mem.writeLe a.toNat n v } } := by
  simp only [State.written, h]

/-- A write completes exactly when it is not refused, and then does what `State.written` says. -/
theorem hostWrite_ok_iff {s t : State} {a : Addr} {n : Nat} {v : Word} :
    hostWrite a n v s = .ok t ↔ refused (.write a n v) s = false ∧ s.written a n v = t := by
  cases hr : refused (.write a n v) s with
  | true => simp [hostWrite_refused hr]
  | false => cases hc : csrAt a.toNat <;> simp [hostWrite, State.written, hr, hc]

/-- A soft reset leaves the coming events and the past answers alone. -/
theorem State.softReset_bus (s : State) : s.softReset.agenda = s.agenda ∧ s.softReset.answers = s.answers := by
  cases h : s.engine with
  | idle => rw [State.softReset_idle h]; exact ⟨rfl, rfl⟩
  | busy w snap => rw [State.softReset_busy h]; exact ⟨rfl, rfl⟩

theorem writeCsr_bus (r : Csr) (v : Word) (s : State) :
    (writeCsr r v s).agenda = s.agenda ∧ (writeCsr r v s).answers = s.answers := by
  cases r with
  | ctrl =>
    cases hv : v.getLsbD 31
    · rw [writeCsr_ctrl_enables s hv]
      exact ⟨rfl, rfl⟩
    · rw [writeCsr_ctrl_reset s hv]
      exact s.softReset_bus
  | _ => exact ⟨rfl, rfl⟩

/-- A write leaves the coming events and the past answers alone: the bus adds the answer to it. -/
theorem State.written_bus (s : State) (a : Addr) (n : Nat) (v : Word) :
    (s.written a n v).agenda = s.agenda ∧ (s.written a n v).answers = s.answers := by
  cases h : csrAt a.toNat with
  | none => rw [State.written_buffer h]; exact ⟨rfl, rfl⟩
  | some r => rw [State.written_csr h]; exact writeCsr_bus r v s

/-- Settles O20: `refused_iff` says which accesses are refused; what passes is answered, and a write changes neither
the agenda nor the answers. -/
theorem refusedAccessesExactly : Obligations.RefusedAccessesExactly := by
  intro s acc rest hagenda
  rw [step_host hagenda]
  have hiff := refused_iff acc { s with agenda := rest }
  refine ⟨fun hc => by rw [access_refused (hiff.mpr hc)]; rfl, fun hc => ?_⟩
  have hpass : refused acc { s with agenda := rest } = false := Bool.eq_false_iff.mpr (mt hiff.mp hc)
  cases acc with
  | read a n =>
    obtain ⟨v, hv⟩ := hostRead_passes hpass
    exact ⟨v, hv, by rw [State.access_read_ok hv]; rfl⟩
  | write a n v =>
    have hwrite := hostWrite_ok_iff.mpr ⟨hpass, rfl⟩
    obtain ⟨hkept, hanswers⟩ := State.written_bus { s with agenda := rest } a n v
    exact ⟨_, hwrite, hkept, hanswers, by rw [State.access_write_ok hwrite, State.answer, hanswers]⟩

/-- Settles O22: a read answers the data or the bus error and does nothing else. -/
theorem readsChangeNothing : Obligations.ReadsChangeNothing := by
  intro s a n rest hagenda
  rw [step_host hagenda]
  cases hr : refused (.read a n) { s with agenda := rest } with
  | true =>
    have hread := hostRead_refused hr
    exact ⟨_, by rw [State.access_read_error hread]; rfl, .inr ⟨hread, rfl⟩⟩
  | false =>
    obtain ⟨v, hread⟩ := hostRead_passes hr
    exact ⟨_, by rw [State.access_read_ok hread]; rfl, .inl ⟨v, hread, rfl⟩⟩

/-! ### Host accesses while a command is in flight -/

/-- An access of a CSR that passes is 4 bytes wide and at the CSR's offset (20_memory.md R82). -/
theorem csr_access_shape {acc : Access} {r : Csr} {s : State} (hpass : refused acc s = false)
    (hcsr : csrAt acc.addr.toNat = some r) : acc.addr = r.offset ∧ acc.width = 4 := by
  have haddr := csrAt_some hcsr
  obtain ⟨-, -, -, hwindow, -, -⟩ := (refused_eq_false_iff _ _).mp hpass
  refine ⟨haddr, (hwindow ((regionOf_csrWindow_iff _).mpr ?_)).1⟩
  rw [haddr]
  exact r.offset_toNat.1

/-- Settles O21: a read or a refused access only answers; while BUSY a write that passes is one to STATUS, one to the
enables, or the soft reset. -/
theorem hostCannotDisturbACommand : Obligations.HostCannotDisturbACommand := by
  intro s t w snap acc rest hbusy hagenda hstep
  rw [step_host hagenda] at hstep
  cases hstep
  have hisBusy : ({ s with agenda := rest } : State).engine.isBusy = true := (isBusy_iff _).mpr ⟨w, snap, hbusy⟩
  obtain ⟨r, h⟩ | ⟨a, n, v, rfl, hpass, ⟨hnone, -⟩ | ⟨r, hcsr, h⟩⟩ := access_cases { s with agenda := rest } acc
  · rw [h]
    exact .inl ⟨hbusy, rfl⟩
  · simpa [hnone] using busy_write_allowed hisBusy hpass
  · rw [h]
    obtain rfl | rfl : r = .ctrl ∨ r = .status := by simpa [hcsr] using busy_write_allowed hisBusy hpass
    · cases hv : v.getLsbD 31
      · rw [writeCsr_ctrl_enables _ hv]
        exact .inl ⟨hbusy, rfl⟩
      · obtain ⟨ha, hn⟩ : a = 0x04 ∧ n = 4 := csr_access_shape hpass hcsr
        rw [writeCsr_ctrl_reset _ hv, ha, hn]
        exact .inr ⟨State.softReset_engine _, v, rfl, hv⟩
    · exact .inl ⟨hbusy, rfl⟩

/-! ### Writing twice -/

theorem Memory.writeLe_idem (m : Memory) (a n : Nat) (v : Word) :
    (m.writeLe a n v).writeLe a n v = m.writeLe a n v :=
  Memory.setBytes_idem m _ (leBytes_nodup a n v)

theorem Plane.setModule_idem (p : Plane) (r c : Nat) (b : Bool) :
    (p.setModule r c b).setModule r c b = p.setModule r c b := by
  simp only [Plane.setModule, List.modify_modify_eq]
  congr 1
  funext row
  exact List.set_set ..

theorem Csrs.writeStatus_idem (c : Csrs) (v : Word) : (c.writeStatus v).writeStatus v = c.writeStatus v := by
  unfold Csrs.writeStatus
  cases v.getLsbD 2 <;> simp

theorem Csrs.writeOperand_idem (c : Csrs) (r : Csr) (v : Word) :
    (c.writeOperand r v).writeOperand r v = c.writeOperand r v := by
  cases r <;> rfl

/-- The first soft reset leaves the engine IDLE, so the second abandons nothing. -/
theorem State.softReset_idem (s : State) : s.softReset.softReset = s.softReset := by
  rw [State.softReset_idle s.softReset_engine]
  cases h : s.engine with
  | idle => rw [State.softReset_idle h]; rfl
  | busy w snap => rw [State.softReset_busy h]; rfl

/-- Every CSR write but the launch is idempotent (20_memory.md R90). -/
theorem writeCsr_idem {r : Csr} (hr : r ≠ .cmd) (v : Word) (s : State) :
    writeCsr r v (writeCsr r v s) = writeCsr r v s := by
  cases r with
  | ctrl =>
    cases hv : v.getLsbD 31
    · simp only [writeCsr_ctrl_enables _ hv]; rfl
    · simp only [writeCsr_ctrl_reset _ hv, State.softReset_idem]
  | status => simp only [writeCsr, Csrs.writeStatus_idem]
  | cmd => exact absurd rfl hr
  | mdata => simp only [writeCsr, Store.writeMdata, Plane.setModule_idem]
  | _ => rfl

/-- Only a launch makes the engine BUSY (40_control.md R141). -/
theorem writeCsr_isBusy {r : Csr} (hr : r ≠ .cmd) (v : Word) (s : State)
    (h : (writeCsr r v s).engine.isBusy = true) : s.engine.isBusy = true := by
  cases r with
  | ctrl =>
    cases hv : v.getLsbD 31
    · rwa [writeCsr_ctrl_enables s hv] at h
    · rw [writeCsr_ctrl_reset s hv, State.softReset_engine] at h
      cases h
  | cmd => exact absurd rfl hr
  | _ => exact h

/-- An access that passes still passes after a write of its own, if the write does not launch: the engine is no busier,
and a write to MDATA leaves MADDR and the latch alone. -/
theorem passes_after_written {s : State} {a : Addr} {n : Nat} {v : Word} (hcmd : csrAt a.toNat ≠ some .cmd)
    (hpass : refused (.write a n v) s = false) : refused (.write a n v) (s.written a n v) = false := by
  cases hc : csrAt a.toNat with
  | none =>
    rw [State.written_buffer hc, ← hpass]
    exact refused_congr _ _ _ rfl fun _ => rfl
  | some r =>
    rw [State.written_csr hc]
    obtain ⟨hwidth, halign, hmapped, hwindow, hbusy, hmdata⟩ := (refused_eq_false_iff _ _).mp hpass
    refine (refused_eq_false_iff _ _).mpr ⟨hwidth, halign, hmapped, hwindow, fun h => ?_, fun h => ?_⟩
    · exact hbusy (writeCsr_isBusy (fun e => hcmd (e ▸ hc)) v s h)
    · cases hc.symm.trans h
      exact hmdata h

/-- Settles O23: the repeated write passes and, CMD aside, changes nothing more. -/
theorem writesAreIdempotent : Obligations.WritesAreIdempotent := by
  intro s t a n v ha hwrite
  obtain ⟨hpass, rfl⟩ := hostWrite_ok_iff.mp hwrite
  have hcmd : csrAt a.toNat ≠ some .cmd := fun h => ha (csrAt_some h)
  refine hostWrite_ok_iff.mpr ⟨passes_after_written hcmd hpass, ?_⟩
  cases hc : csrAt a.toNat with
  | none => simp only [State.written_buffer hc, Memory.writeLe_idem]
  | some r =>
    simp only [State.written_csr hc]
    exact writeCsr_idem (fun e => hcmd (e ▸ hc)) v s

/-! ### Reads and writes of the buffers -/

/-- While IDLE an aligned access of 1, 2 or 4 buffer bytes passes (20_memory.md R81, R82). -/
theorem buffer_access_allowed {acc : Access} {s : State} (hidle : s.engine = .idle) (hbuf : InBuffers acc.addr.toNat)
    (hwidth : acc.width = 1 ∨ acc.width = 2 ∨ acc.width = 4) (halign : acc.addr.toNat % acc.width = 0) :
    refused acc s = false ∧ csrAt acc.addr.toNat = none := by
  have hhigh : 0x100 ≤ acc.addr.toNat := by unfold InBuffers at hbuf; omega
  have hnone := csrAt_big hhigh
  refine ⟨(refused_eq_false_iff _ _).mpr ⟨hwidth, halign, ?_, ?_, ?_, ?_⟩, hnone⟩
  · exact (regionOf_ne_unmapped_iff _).mpr fun h => h.2 hbuf
  · rw [regionOf_csrWindow_iff]; omega
  · simp [hidle, Engine.isBusy]
  · simp [hnone]

/-- The number whose byte at weight 256^j is `f j`, for j < n: the sum of 20_memory.md R84. -/
def littleEndian (f : Nat → Byte) (n : Nat) : Nat := ((List.range n).map fun j => (f j).toNat * 2 ^ (8 * j)).sum

theorem littleEndian_succ (f : Nat → Byte) (n : Nat) :
    littleEndian f (n + 1) = littleEndian f n + (f n).toNat * 2 ^ (8 * n) := by
  simp [littleEndian, List.range_succ]

theorem littleEndian_lt (f : Nat → Byte) (n : Nat) : littleEndian f n < 2 ^ (8 * n) := by
  induction n with
  | zero => simp [littleEndian]
  | succ n ih =>
    have hbyte : (f n).toNat + 1 ≤ 256 := (f n).isLt
    calc littleEndian f (n + 1) = littleEndian f n + (f n).toNat * 2 ^ (8 * n) := littleEndian_succ f n
      _ < 2 ^ (8 * n) + (f n).toNat * 2 ^ (8 * n) := Nat.add_lt_add_right ih _
      _ = ((f n).toNat + 1) * 2 ^ (8 * n) := by ring
      _ ≤ 256 * 2 ^ (8 * n) := Nat.mul_le_mul_right _ hbyte
      _ = 2 ^ (8 * (n + 1)) := by rw [Nat.mul_succ, Nat.pow_add, Nat.mul_comm]

/-- Byte j of the sum is its j-th summand's: what stands below vanishes in the division, what stands above in the
remainder. -/
theorem littleEndian_byte (f : Nat → Byte) {n j : Nat} (h : j < n) :
    littleEndian f n / 2 ^ (8 * j) % 256 = (f j).toNat := by
  induction n with
  | zero => omega
  | succ n ih =>
    rw [littleEndian_succ]
    obtain rfl | hj : j = n ∨ j < n := by omega
    · rw [Nat.add_mul_div_right _ _ (Nat.two_pow_pos _), Nat.div_eq_of_lt (littleEndian_lt f j), Nat.zero_add]
      exact Nat.mod_eq_of_lt (f j).isLt
    · have hweight : (f n).toNat * 2 ^ (8 * n) = 256 * ((f n).toNat * 2 ^ (8 * (n - j - 1))) * 2 ^ (8 * j) := by
        have hexp : 8 * n = 8 + 8 * (n - j - 1) + 8 * j := by omega
        rw [hexp, Nat.pow_add, Nat.pow_add]
        ring
      rw [hweight, Nat.add_mul_div_right _ _ (Nat.two_pow_pos _), Nat.add_mul_mod_self_left]
      exact ih hj

theorem Memory.readLe_toNat (m : Memory) (a : Nat) {n : Nat} (h : n ≤ 4) :
    (m.readLe a n).toNat = littleEndian (fun j => m.byte (a + j)) n := by
  have hlt := littleEndian_lt (fun j => m.byte (a + j)) n
  have hpow : 2 ^ (8 * n) ≤ 2 ^ 32 := Nat.pow_le_pow_right (by decide) (by omega)
  exact (BitVec.toNat_ofNat ..).trans (Nat.mod_eq_of_lt (hlt.trans_le hpow))

/-- Settles O18: the read passes and answers the sum of the bytes, whose byte j is the j-th of them. -/
theorem bufferReadIsLittleEndian : Obligations.BufferReadIsLittleEndian := by
  intro s a n hidle hbuf hn halign
  obtain ⟨hpass, hnone⟩ := buffer_access_allowed (acc := .read a n) hidle hbuf hn halign
  have hread : hostRead a n s = .ok (s.store.mem.readLe a.toNat n) := by
    simp only [Access.addr] at hnone
    simp [hostRead, hpass, hnone]
  have hvalue := s.store.mem.readLe_toNat a.toNat (n := n) (by omega)
  refine ⟨_, hread, hvalue ▸ littleEndian_lt _ n, fun j hj => BitVec.eq_of_toNat_eq ?_⟩
  rw [extract_toNat, hvalue, littleEndian_byte _ hj]

/-- Settles O19: the write passes and is `Memory.writeLe`, which sets these bytes and no others. -/
theorem bufferWriteIsLittleEndian : Obligations.BufferWriteIsLittleEndian := by
  intro s a n v hidle hbuf hn halign
  obtain ⟨hpass, hnone⟩ := buffer_access_allowed (acc := .write a n v) hidle hbuf hn halign
  refine ⟨_, hostWrite_ok_iff.mpr ⟨hpass, State.written_buffer hnone⟩, rfl, fun j hj => ?_, fun x hx => ?_⟩
  · exact Memory.byte_writeLe _ _ _ _ _ hj
  · exact Memory.byte_writeLe_other _ _ _ _ _ (by omega)

/-! ### What a completion leaves alone -/

/-- A completion leaves the layout and MADDR alone (20_memory.md R92). -/
theorem State.finish_layout_maddr (s : State) (r : CmdResult) :
    (s.finish r).store.csr.b1 = s.store.csr.b1 ∧ (s.finish r).store.csr.k1 = s.store.csr.k1 ∧
      (s.finish r).store.csr.b2 = s.store.csr.b2 ∧ (s.finish r).store.csr.k2 = s.store.csr.k2 ∧
      (s.finish r).store.csr.nec = s.store.csr.nec ∧
      (s.finish r).store.csr.row = s.store.csr.row ∧ (s.finish r).store.csr.col = s.store.csr.col := by
  cases r <;> simp

/-- Settles O10: every command is a completion, which writes result registers and flags only. -/
theorem completionLeavesOperandsAlone : Obligations.CompletionLeavesOperandsAlone := by
  intro i s t h
  rw [exec_eq] at h
  cases h
  obtain ⟨hengine, hagenda, hanswers, habandons⟩ := s.finish_frame (runInstr i s.snap)
  obtain ⟨hdoneIe, herrIe, hversion, hsrc, hdst, hlen, hdone⟩ := s.finish_operands (runInstr i s.snap)
  obtain ⟨hb1, hk1, hb2, hk2, hnec, hrow, hcol⟩ := s.finish_layout_maddr (runInstr i s.snap)
  exact ⟨hengine, hdone, hagenda, hanswers, habandons, hdoneIe, herrIe, hversion, hb1, hk1, hb2, hk2, hnec, hsrc, hdst,
    hlen, hrow, hcol⟩

end Sys2Proof.Machine

/-!
PROOFS. Encoding and decoding as inverse maps between the commands and the words that pass the checks of
30_encoding.md R117, those checks in numbers, and the completion of a word that fails one.
-/

namespace Sys2Proof.Machine

/-! ### Decoding and encoding -/

/-- The fields of a command pass the checks and name the command (30_encoding.md R113, R117). -/
theorem decodeFields_fields (i : Instr) : decodeFields i.fields = .ok i := by
  simp only [decodeFields, i.fields_problem, instrOf_fields]

@[simp] theorem decode_encode (i : Instr) : decode (encode i) = .ok i := by
  rw [decode, encode, Fields.ofWord_toWord, decodeFields_fields]

theorem encode_of_decode {w : Word} {i : Instr} (h : decode w = .ok i) : encode i = w := by
  rw [encode, decodeFields_ok h, Fields.toWord_ofWord]

/-- Settles O1: the fields of a command pass the checks, and its word has these fields. -/
theorem decodeOfEncodeIsTheCommand : Obligations.DecodeOfEncodeIsTheCommand :=
  fun i => ⟨i.fields_problem, decode_encode i⟩

/-- Settles O2: the fields of the word are those of the command, and a word is packed from its fields. -/
theorem encodeOfDecodeIsTheWord : Obligations.EncodeOfDecodeIsTheWord :=
  fun _ _ => encode_of_decode

/-- Settles O4: each of the words is the encoding of its command. -/
theorem writtenOutWordsDecode : Obligations.WrittenOutWordsDecode :=
  ⟨decode_encode .nop, decode_encode (.gfmul 0x53 0xCA), decode_encode (.gflog 0x53), decode_encode (.rsgen 7),
    decode_encode (.rsenc 10 16), decode_encode (.rssyn 10 26), decode_encode .eccblk, decode_encode .mxplace,
    decode_encode (.mxscore 8)⟩

/-! ### The words that are no command -/

/-- The map of 30_encoding.md R113 names a command for each of its opcodes. -/
theorem instrOf_of_listed {f : Fields} (h : f.opc ∈ listedOpcodes) : ∃ i, instrOf f = some i := by
  obtain ⟨o, a, b, c⟩ := f
  simp only [listedOpcodes, List.mem_cons, List.not_mem_nil, or_false] at h
  rcases h with rfl | rfl | rfl | rfl | rfl | rfl | rfl | rfl | rfl | rfl | rfl | rfl | rfl | rfl <;>
    exact ⟨_, rfl⟩

/-- A word is rejected exactly when a check finds a problem: what passes the checks has an opcode of the map. -/
theorem decode_error_iff (w : Word) : (∃ e, decode w = .error e) ↔ (Fields.ofWord w).problem ≠ none := by
  unfold decode decodeFields
  cases hp : (Fields.ofWord w).problem with
  | some e => simp
  | none =>
    obtain ⟨hopc, -⟩ := problem_none hp
    obtain ⟨i, hi⟩ := instrOf_of_listed hopc
    simp [hi]

/-- `problem_none` with its converse. -/
theorem problem_eq_none_iff (f : Fields) :
    f.problem = none ↔ f.opc ∈ listedOpcodes ∧ f.c = 0 ∧ (f.opc ∈ opcodesUsingA ∨ f.a = 0) ∧
      (f.opc ∈ opcodesUsingB ∨ f.b = 0) := by
  refine ⟨problem_none, fun ⟨hopc, hc, ha, hb⟩ => ?_⟩
  rw [Fields.problem, if_neg (not_not.mpr hopc), if_neg (not_not.mpr hc), if_neg (by tauto), if_neg (by tauto)]

/-- The fields of a word are its digits to the base 256 (30_encoding.md R110). -/
theorem ofWord_toNat (w : Word) :
    (Fields.ofWord w).opc.toNat = wordOpc w ∧ (Fields.ofWord w).a.toNat = wordA w ∧
      (Fields.ofWord w).b.toNat = wordB w ∧ (Fields.ofWord w).c.toNat = wordC w := by
  have hw := w.isLt
  simp only [Fields.ofWord, extract_toNat, wordOpc, wordA, wordB, wordC]
  omega

theorem toNat_mem_map_iff (b : Byte) (l : List Byte) : b.toNat ∈ l.map BitVec.toNat ↔ b ∈ l :=
  List.mem_map_of_injective BitVec.toNat_injective

/-- The conditions of 30_encoding.md R114 and R115 are the checks of R117, in numbers: the numbers `NoCommand` lists
are the opcode lists under `BitVec.toNat`. -/
theorem noCommand_iff (w : Word) : NoCommand w ↔ (Fields.ofWord w).problem ≠ none := by
  obtain ⟨hopc, ha, hb, hc⟩ := ofWord_toNat w
  have hlisted := toNat_mem_map_iff (Fields.ofWord w).opc listedOpcodes
  have husesA := toNat_mem_map_iff (Fields.ofWord w).opc opcodesUsingA
  have husesB := toNat_mem_map_iff (Fields.ofWord w).opc opcodesUsingB
  rw [Ne, problem_eq_none_iff, ← hlisted, ← husesA, ← husesB, byte_eq_zero_iff, byte_eq_zero_iff,
    byte_eq_zero_iff, hopc, ha, hb, hc]
  simp only [not_and_or, not_or]
  exact Iff.rfl

/-- Settles O3: both sides say that a check of R117 finds a problem. -/
theorem wordsWithoutCommand : Obligations.WordsWithoutCommand :=
  fun w => (decode_error_iff w).trans (noCommand_iff w).symm

/-! ### The engine's turn on a word that is no command -/

theorem step_of_engineNext {s : State} {rest : List Event} (h : EngineNext s rest) :
    step s = engineTurn { s with agenda := rest } := by
  obtain ⟨hagenda, rfl⟩ | hagenda := h
  · have hs : { s with agenda := [] } = s := by rw [← hagenda]
    rw [hs]
    simp only [step, nextEvent, hagenda]
  · simp only [step, nextEvent, hagenda, State.event]

/-- A step in which the engine has its turn while BUSY completes the word in flight (40_control.md R142). -/
theorem step_completes {s : State} {w : Word} {snap : Store} {rest : List Event} (hbusy : s.engine = .busy w snap)
    (hnext : EngineNext s rest) :
    step s = .next (State.finish { s with agenda := rest } (runWord w snap)) := by
  rw [step_of_engineNext hnext, engineTurn_busy (s := { s with agenda := rest }) hbusy]

theorem runWord_noCommand {w : Word} (h : NoCommand w) (snap : Store) : runWord w snap = .err .badopc := by
  obtain ⟨e, he⟩ := (wordsWithoutCommand w).mpr h
  rw [runWord, he]

/-- A command that takes an error is a failed completion with the error's code (60_exceptions.md R292). -/
theorem failCommand_failedWith (s : State) (e : ErrCode) : FailedWith e.code s (s.failCommand e) := rfl

/-- Settles O8: the word in flight runs to BADOPC, whose code is 1. -/
theorem noCommandCompletesWithBadopc : Obligations.NoCommandCompletesWithBadopc := by
  intro s w snap rest hbusy hnext hword
  refine ⟨State.failCommand { s with agenda := rest } .badopc, ?_, failCommand_failedWith _ .badopc⟩
  rw [step_completes hbusy hnext, runWord_noCommand hword, State.finish_err]

end Sys2Proof.Machine

/-!
PROOFS. The life cycle of a command: the launch, what `run` reads of the store, and the engine's turn on a word that
decodes (40_control.md R141–R147).
-/

namespace Sys2Proof.Machine

/-! ### What `run` reads -/

/-- All that `run` takes from a store are the operand CSRs, the bytes, the plane and the latch, and these are the same
in both stores by definition, command by command (40_control.md R142). -/
theorem runInstr_congr {st st' : Store} (h : SameButFlagsAndEnables st st') (i : Instr) :
    runInstr i st' = runInstr i st := by
  rw [h]
  cases i <;> rfl

theorem runWord_congr {st st' : Store} (h : SameButFlagsAndEnables st st') (w : Word) :
    runWord w st' = runWord w st := by
  simp only [runWord, runInstr_congr h]

/-- A store that still is its snapshot but for the enables is so but for the flags and the enables. -/
theorem Store.onlyEnablesDiffer.sameButFlagsAndEnables {st snap : Store} (h : st.onlyEnablesDiffer snap) :
    SameButFlagsAndEnables snap st := by
  unfold SameButFlagsAndEnables
  rw [h]

/-- Settles O11: `run` reads neither the flags nor the enables, and under the invariant the store of a BUSY engine
differs from the snapshot in the enables at most. -/
theorem runReadsNeitherFlagsNorEnables : Obligations.RunReadsNeitherFlagsNorEnables := by
  refine ⟨fun w _ _ hsame => runWord_congr hsame w, fun s w snap hinv hbusy => ?_⟩
  obtain ⟨-, -, -, -, hdiff⟩ := hinv.inFlight w snap hbusy
  exact runWord_congr hdiff.sameButFlagsAndEnables w

/-! ### The engine's turn -/

theorem runWord_of_decode {w : Word} {i : Instr} (h : decode w = .ok i) (snap : Store) :
    runWord w snap = runInstr i snap := by
  simp only [runWord, h]

theorem step_runs_decoded {s : State} {w : Word} {snap : Store} {i : Instr} {rest : List Event}
    (hbusy : s.engine = .busy w snap) (hdecode : decode w = .ok i) (hnext : EngineNext s rest) :
    step s = exec i { s with agenda := rest } := by
  rw [step_completes hbusy hnext, runWord_of_decode hdecode, exec_eq,
    State.snap_busy { s with agenda := rest } w snap hbusy]

theorem step_waits {s : State} {rest : List Event} (hidle : s.engine = .idle) (hnext : EngineNext s rest) :
    step s = .next { s with agenda := rest } := by
  rw [step_of_engineNext hnext, engineTurn_idle (s := { s with agenda := rest }) hidle]

/-- A 32-bit word put where the next step runs it is launched as it is, and the engine's turn follows. -/
theorem State.withFetchWord_word (s : State) (w : Word) :
    s.withFetchWord 32 w.toNat = (s.launch w).schedule .engine := by
  rw [State.withFetchWord, BitVec.toNat_mod_cancel, BitVec.ofNat_toNat, BitVec.setWidth_eq]

/-- Settles O5: the engine completes the word in flight, which a launch of an encoded command makes that command's. -/
theorem stepRunsTheDecodedCommand : Obligations.StepRunsTheDecodedCommand := by
  refine ⟨fun _ _ _ _ _ => step_runs_decoded, fun _ _ => step_waits, fun s i => ?_⟩
  rw [State.withFetchWord_word]
  exact step_runs_decoded (State.launch_engine s (encode i)) (decode_encode i) (.inr rfl)

/-! ### The launch -/

theorem statusWord_busy (s : State) : (statusWord s).getLsbD 0 = s.engine.isBusy := by
  simp only [statusWord, BitVec.getLsbD_or, getLsbD_bitAt, BitVec.getLsbD_shiftLeft]
  simp

/-- While IDLE every word may be written to CMD, and the write is its launch (10_state.md R40). -/
theorem hostWrite_cmd {s : State} (hidle : s.engine = .idle) (w : Word) :
    hostWrite 0x0C 4 w s = .ok (s.launch w) :=
  hostWrite_csr .cmd w (.inl hidle) nofun

/-- Settles O6: the write passes, it is the launch, and a launched engine is BUSY. -/
theorem cmdWriteLaunches : Obligations.CmdWriteLaunches := by
  intro s w rest hidle hagenda
  have hwrite := hostWrite_cmd (s := { s with agenda := rest }) hidle w
  refine ⟨_, _, ?_, rfl, rfl, ?_⟩
  · rw [step_host hagenda, State.access_write_ok hwrite]
    rfl
  · exact statusWord_busy _

/-! ### NOP -/

/-- Settles O30: NOP returns no writes, so that its completion does nothing but set DONE and leave the engine IDLE. -/
theorem nopOnlyCompletes : Obligations.NopOnlyCompletes := by
  intro s
  have hrun : runInstr .nop s.snap = .ok {} := rfl
  rw [exec_ok hrun, State.succeed_csr_only s {} rfl rfl rfl rfl rfl, Csrs.apply_empty]
  rfl

end Sys2Proof.Machine

/-!
PROOFS. The field GF(256) and its four commands. The product is additive in each factor, so multiplication by α
associates because it does on the powers of two; the exponent table then turns products into sums of exponents, and the
logarithm table brings every nonzero byte into that form (41_gf256.md R162–R171).
-/

namespace Sys2Proof.Machine

/-! ### The product is additive in each factor -/

/-- Two conditional additions of one term, added: where both happen, they cancel. -/
theorem ite_xor_ite {w : Nat} (b c : Bool) (r t p : BitVec w) :
    (if b then r ^^^ p else r) ^^^ (if c then t ^^^ p else t) = if b ^^ c then r ^^^ t ^^^ p else r ^^^ t := by
  cases b <;> cases c
  case false.false => rfl
  case false.true => exact (BitVec.xor_assoc r t p).symm
  case true.false => show r ^^^ p ^^^ t = r ^^^ t ^^^ p; ac_rfl
  case true.true =>
    calc r ^^^ p ^^^ (t ^^^ p) = r ^^^ t ^^^ (p ^^^ p) := by ac_rfl
      _ = r ^^^ t := by rw [BitVec.xor_self, BitVec.xor_zero]

/-- Two additions under one condition, added. -/
theorem ite_xor_ite_same {w : Nat} (b : Bool) (r t p q : BitVec w) :
    (if b then r ^^^ p else r) ^^^ (if b then t ^^^ q else t) = if b then r ^^^ t ^^^ (p ^^^ q) else r ^^^ t := by
  cases b
  case false => rfl
  case true => show r ^^^ p ^^^ (t ^^^ q) = r ^^^ t ^^^ (p ^^^ q); ac_rfl

theorem reducePoly_xor (r t : BitVec 15) : reducePoly (r ^^^ t) = reducePoly r ^^^ reducePoly t := by
  refine List.foldl_hom₂ _ (· ^^^ ·) _ _ _ r t fun r t i => ?_
  rw [ite_xor_ite, BitVec.getLsbD_xor]

theorem carrylessMul_xor_left (a a' b : Byte) :
    carrylessMul (a ^^^ a') b = carrylessMul a b ^^^ carrylessMul a' b := by
  refine List.foldl_hom₂ (List.range 8) (· ^^^ ·) _ _ _ (0 : BitVec 15) (0 : BitVec 15) fun r t i => ?_
  rw [ite_xor_ite_same, BitVec.setWidth_xor, BitVec.shiftLeft_xor_distrib]

theorem carrylessMul_xor_right (a b b' : Byte) :
    carrylessMul a (b ^^^ b') = carrylessMul a b ^^^ carrylessMul a b' := by
  refine List.foldl_hom₂ (List.range 8) (· ^^^ ·) _ _ _ (0 : BitVec 15) (0 : BitVec 15) fun r t i => ?_
  rw [ite_xor_ite, BitVec.getLsbD_xor]

theorem gfmul_xor_left (a a' b : Byte) : gfmul (a ^^^ a') b = gfmul a b ^^^ gfmul a' b := by
  simp only [gfmul, carrylessMul_xor_left, reducePoly_xor, BitVec.setWidth_xor]

theorem gfmul_xor_right (a b b' : Byte) : gfmul a (b ^^^ b') = gfmul a b ^^^ gfmul a b' := by
  simp only [gfmul, carrylessMul_xor_right, reducePoly_xor, BitVec.setWidth_xor]

/-- The image of 0 = 0 + 0 is its own double, and every double is 0. -/
theorem additive_zero {f : Byte → Byte} (hf : ∀ x y, f (x ^^^ y) = f x ^^^ f y) : f 0 = 0 := by
  simpa using hf 0 0

@[simp] theorem gfmul_zero_left (b : Byte) : gfmul 0 b = 0 := additive_zero (f := (gfmul · b)) (gfmul_xor_left · · b)

@[simp] theorem gfmul_zero_right (a : Byte) : gfmul a 0 = 0 := additive_zero (gfmul_xor_right a)

/-! ### Multiplication by 1 and by α -/

/-- A byte is the sum of the powers of two at its bits. -/
theorem byte_eq_sum_of_bits :
    ∀ x : Byte, (List.range 8).foldl (fun r i => if x.getLsbD i then r ^^^ (1 : Byte) <<< i else r) 0 = x := by
  decide +kernel

/-- What holds of 0 and of the powers of two, and of a sum when of both summands, holds of every byte. -/
theorem byte_xor_induction {P : Byte → Prop} (zero : P 0) (pow : ∀ i < 8, P (1 <<< i))
    (xor : ∀ x y, P x → P y → P (x ^^^ y)) (x : Byte) : P x := by
  refine byte_eq_sum_of_bits x ▸ List.foldlRecOn (motive := P) _ _ zero fun r hr i hi => ?_
  split
  · exact xor _ _ hr (pow i (List.mem_range.mp hi))
  · exact hr

@[simp] theorem gfmul_one (a : Byte) : gfmul a 1 = a := by
  induction a using byte_xor_induction with
  | zero => exact gfmul_zero_left 1
  | pow i hi => exact (by decide +kernel : ∀ i < 8, gfmul (1 <<< i) 1 = 1 <<< i) i hi
  | xor x y hx hy => rw [gfmul_xor_left, hx, hy]

/-- Both sides are additive in a and in b, and on the powers of two they agree by evaluation. -/
theorem gfmul_gfmul_two (a b : Byte) : gfmul a (gfmul b 2) = gfmul (gfmul a b) 2 := by
  have hpow : ∀ i < 8, ∀ j < 8,
      gfmul (1 <<< i) (gfmul (1 <<< j) 2) = gfmul (gfmul (1 <<< i) (1 <<< j)) 2 := by decide +kernel
  induction a using byte_xor_induction with
  | zero => simp only [gfmul_zero_left]
  | xor a a' ha ha' => simp only [gfmul_xor_left, ha, ha']
  | pow i hi =>
    induction b using byte_xor_induction with
    | zero => simp only [gfmul_zero_left, gfmul_zero_right]
    | xor b b' hb hb' => simp only [gfmul_xor_left, gfmul_xor_right, hb, hb']
    | pow j hj => exact hpow i hi j hj

/-! ### The tables -/

/-- The rows of 41_gf256.md R170 hold the powers of 0x02: each entry is twice the one before. -/
theorem gfExp_succ : ∀ i < 254, gfExp (i + 1) = gfmul (gfExp i) 2 := by decide +kernel

/-- α^255 = 1 (41_gf256.md R163). -/
theorem gfExp_last : gfmul (gfExp 254) 2 = 1 := by decide +kernel

theorem gfLog_gfExp : ∀ i < 255, gfLog (gfExp i) = i := by decide +kernel

theorem gfLog_table : ∀ a : Byte, a ≠ 0 → gfLog a ≤ 254 ∧ gfExp (gfLog a) = a := by decide +kernel

/-- Settles O35: the tables are literals, read entry by entry. -/
theorem tablesArePowersAndLogarithms : Obligations.TablesArePowersAndLogarithms :=
  ⟨rfl, gfExp_succ, gfExp_last, gfLog_gfExp, gfLog_table⟩

/-! ### Powers of α -/

theorem alphaPow_congr {i j : Nat} (h : i % 255 = j % 255) : alphaPow i = alphaPow j := congrArg gfExp h

theorem alphaPow_of_lt {i : Nat} (h : i < 255) : alphaPow i = gfExp i := congrArg gfExp (Nat.mod_eq_of_lt h)

@[simp] theorem alphaPow_zero : alphaPow 0 = 1 := rfl

/-- Every power of α is twice the one before: inside the table by its entries, at its end because α^255 = 1. -/
theorem alphaPow_succ (i : Nat) : alphaPow (i + 1) = gfmul (alphaPow i) 2 := by
  have hlt : i % 255 < 255 := Nat.mod_lt _ (by decide)
  obtain hi | hi : i % 255 < 254 ∨ i % 255 = 254 := by omega
  · have hnext : (i + 1) % 255 = i % 255 + 1 := by omega
    rw [alphaPow, hnext, gfExp_succ _ hi, alphaPow]
  · have hnext : (i + 1) % 255 = 0 := by omega
    rw [alphaPow, hnext, alphaPow, hi, gfExp_last]
    rfl

/-- Exponents add (41_gf256.md R165). -/
theorem gfmul_alphaPow (i j : Nat) : gfmul (alphaPow i) (alphaPow j) = alphaPow (i + j) := by
  induction j with
  | zero => exact gfmul_one _
  | succ j ih =>
    calc gfmul (alphaPow i) (alphaPow (j + 1)) = gfmul (alphaPow i) (gfmul (alphaPow j) 2) := by rw [alphaPow_succ]
      _ = gfmul (gfmul (alphaPow i) (alphaPow j)) 2 := gfmul_gfmul_two _ _
      _ = gfmul (alphaPow (i + j)) 2 := by rw [ih]
      _ = alphaPow (i + (j + 1)) := (alphaPow_succ _).symm

/-- A sum of exponents that is a multiple of 255 makes the product 1. -/
theorem gfmul_alphaPow_eq_one {i j : Nat} (h : (i + j) % 255 = 0) : gfmul (alphaPow i) (alphaPow j) = 1 := by
  rw [gfmul_alphaPow, alphaPow_congr (j := 0) h, alphaPow_zero]

/-- The power has an inverse, and 0 has none. -/
theorem alphaPow_ne_zero (i : Nat) : alphaPow i ≠ 0 := by
  intro h
  have hone := gfmul_alphaPow_eq_one (i := i) (j := 255 - i % 255) (by omega)
  rw [h, gfmul_zero_left] at hone
  exact absurd hone (by decide)

theorem alphaPow_gfLog {a : Byte} (ha : a ≠ 0) : alphaPow (gfLog a) = a := by
  obtain ⟨hle, hexp⟩ := gfLog_table a ha
  rw [alphaPow_of_lt (by omega), hexp]

/-- Every byte is 0 or a power of α (41_gf256.md R164). -/
theorem eq_zero_or_alphaPow (a : Byte) : a = 0 ∨ ∃ i, a = alphaPow i := by
  by_cases ha : a = 0
  · exact .inl ha
  · exact .inr ⟨gfLog a, (alphaPow_gfLog ha).symm⟩

/-- Settles O34: bytes other than 0 are powers of α, whose exponents add. -/
theorem gfTableFormAgrees : Obligations.GfTableFormAgrees := by
  intro a b
  by_cases ha : a = 0
  · rw [if_pos (.inl ha), ha, gfmul_zero_left]
  by_cases hb : b = 0
  · rw [if_pos (.inr hb), hb, gfmul_zero_right]
  have hzero : ¬ (a = 0 ∨ b = 0) := not_or.mpr ⟨ha, hb⟩
  calc gfmul a b = gfmul (alphaPow (gfLog a)) (alphaPow (gfLog b)) := by rw [alphaPow_gfLog ha, alphaPow_gfLog hb]
    _ = gfExp ((gfLog a + gfLog b) % 255) := gfmul_alphaPow _ _
    _ = if a = 0 ∨ b = 0 then 0 else gfExp ((gfLog a + gfLog b) % 255) := (if_neg hzero).symm

/-! ### The field laws -/

theorem gfmul_comm (a b : Byte) : gfmul a b = gfmul b a := by
  obtain rfl | ⟨i, rfl⟩ := eq_zero_or_alphaPow a
  · rw [gfmul_zero_left, gfmul_zero_right]
  obtain rfl | ⟨j, rfl⟩ := eq_zero_or_alphaPow b
  · rw [gfmul_zero_left, gfmul_zero_right]
  rw [gfmul_alphaPow, gfmul_alphaPow, Nat.add_comm]

theorem gfmul_assoc (a b c : Byte) : gfmul (gfmul a b) c = gfmul a (gfmul b c) := by
  obtain rfl | ⟨i, rfl⟩ := eq_zero_or_alphaPow a
  · simp only [gfmul_zero_left]
  obtain rfl | ⟨j, rfl⟩ := eq_zero_or_alphaPow b
  · simp only [gfmul_zero_left, gfmul_zero_right]
  obtain rfl | ⟨k, rfl⟩ := eq_zero_or_alphaPow c
  · simp only [gfmul_zero_right]
  simp only [gfmul_alphaPow, Nat.add_assoc]

theorem gfInv_eq_alphaPow (a : Byte) : gfInv a = alphaPow ((255 - gfLog a) % 255) :=
  (alphaPow_of_lt (Nat.mod_lt _ (by decide))).symm

theorem gfmul_gfInv {a : Byte} (ha : a ≠ 0) : gfmul a (gfInv a) = 1 := by
  obtain ⟨hle, -⟩ := gfLog_table a ha
  calc gfmul a (gfInv a) = gfmul (alphaPow (gfLog a)) (alphaPow ((255 - gfLog a) % 255)) := by
        rw [alphaPow_gfLog ha, gfInv_eq_alphaPow]
    _ = 1 := gfmul_alphaPow_eq_one (by omega)

/-- The inverse is the only one: multiply a ⊗ b = 1 by it. -/
theorem gfmul_eq_one_iff {a : Byte} (ha : a ≠ 0) (b : Byte) : gfmul a b = 1 ↔ b = gfInv a := by
  constructor
  · intro h
    calc b = gfmul b (gfmul a (gfInv a)) := by rw [gfmul_gfInv ha, gfmul_one]
      _ = gfmul (gfmul a b) (gfInv a) := by rw [← gfmul_assoc, gfmul_comm b]
      _ = gfInv a := by rw [h, gfmul_comm, gfmul_one]
  · rintro rfl
    exact gfmul_gfInv ha

/-- Settles O33: distribution is the product's additivity, the other laws are those of the exponents. -/
theorem gfFieldLaws : Obligations.GfFieldLaws := by
  refine ⟨fun a b => ⟨BitVec.xor_comm a b, gfmul_comm a b⟩, fun a b c => ⟨BitVec.xor_assoc a b c, gfmul_assoc a b c⟩,
    gfmul_xor_right, fun a => ⟨BitVec.xor_self, BitVec.xor_zero, gfmul_one a, gfmul_zero_right a⟩, fun a b ha => ?_,
    gfmul_alphaPow⟩
  rw [gfmul_eq_one_iff ha, gfInv_eq_alphaPow]

/-! ### The commands -/

/-- A command whose one write is RESULT sets it and DONE, and leaves the engine IDLE (40_control.md R143). -/
theorem exec_result_only {i : Instr} {s : State} {v : Word} (h : runInstr i s.snap = .ok { result := some v }) :
    exec i s =
      .next { s with
        engine := .idle
        store := { s.store with csr := { s.store.csr with done := true, result := v } } } := by
  rw [exec_ok h, State.succeed_csr_only s _ rfl rfl rfl rfl rfl, Csrs.apply_result_only]
  rfl

/-- Settles O31: the commands write only RESULT. -/
theorem gfmulAndGfexpResults : Obligations.GfmulAndGfexpResults :=
  fun _ _ _ => ⟨exec_result_only rfl, exec_result_only rfl⟩

theorem runInstr_gflog {a : Byte} (ha : a ≠ 0) (snap : Store) :
    runInstr (.gflog a) snap = .ok { result := some (toWord (gfLog a)) } := if_neg ha

theorem runInstr_gfinv {a : Byte} (ha : a ≠ 0) (snap : Store) :
    runInstr (.gfinv a) snap = .ok { result := some (byteWord (gfInv a)) } := if_neg ha

/-- Settles O32: e is LOG[a] and b is a⁻¹. -/
theorem gflogAndGfinvResults : Obligations.GflogAndGfinvResults := by
  intro s a ha
  obtain ⟨hle, -⟩ := gfLog_table a ha
  exact ⟨gfLog a, gfInv a, hle, alphaPow_gfLog ha, gfmul_gfInv ha, exec_result_only (runInstr_gflog ha s.snap),
    exec_result_only (runInstr_gfinv ha s.snap)⟩

end Sys2Proof.Machine

/-!
PROOFS. The Reed–Solomon coder. Horner's rule from any start value is additive and keeps a common factor, so the
generator's roots and the zero syndromes follow without powers of the point; what a command writes is then read off its
`run` (42_reed_solomon.md R180–R191).
-/

namespace Sys2Proof.Machine

/-! ### Horner's rule from a start value -/

/-- Horner's rule (42_reed_solomon.md R185) continued from the value `s` of the coefficients before. -/
def hornerFrom (x s : Byte) (r : List Byte) : Byte := r.foldl (fun s c => gfmul s x ^^^ c) s

theorem polyEval_eq_hornerFrom (r : List Byte) (x : Byte) : polyEval r x = hornerFrom x 0 r := rfl

@[simp] theorem hornerFrom_nil (x s : Byte) : hornerFrom x s [] = s := rfl

@[simp] theorem hornerFrom_cons (x s c : Byte) (r : List Byte) :
    hornerFrom x s (c :: r) = hornerFrom x (gfmul s x ^^^ c) r := rfl

theorem hornerFrom_append (x s : Byte) (r t : List Byte) :
    hornerFrom x s (r ++ t) = hornerFrom x (hornerFrom x s r) t := List.foldl_append

/-- A coefficient 0 at the end multiplies by x. -/
theorem hornerFrom_append_zero (x s : Byte) (r : List Byte) :
    hornerFrom x s (r ++ [0]) = gfmul (hornerFrom x s r) x := by
  rw [hornerFrom_append, hornerFrom_cons, hornerFrom_nil]
  exact BitVec.xor_zero

/-- Leading coefficients 0 add nothing. -/
theorem hornerFrom_replicate_zero (x : Byte) (n : Nat) : hornerFrom x 0 (List.replicate n 0) = 0 := by
  induction n with
  | zero => rfl
  | succ n ih => rw [List.replicate_succ, hornerFrom_cons, gfmul_zero_left]; exact ih

/-- Horner's rule is additive in the start value and the coefficients. -/
theorem hornerFrom_xor (x s s' : Byte) {r t : List Byte} (h : r.length = t.length) :
    hornerFrom x (s ^^^ s') (List.zipWith (· ^^^ ·) r t) = hornerFrom x s r ^^^ hornerFrom x s' t := by
  induction r generalizing s s' t with
  | nil => cases List.length_eq_zero_iff.mp h.symm; rfl
  | cons c r ih =>
    cases t with
    | nil => cases h
    | cons d t =>
      have hstep : gfmul (s ^^^ s') x ^^^ (c ^^^ d) = (gfmul s x ^^^ c) ^^^ (gfmul s' x ^^^ d) := by
        rw [gfmul_xor_left]; ac_rfl
      rw [List.zipWith_cons_cons, hornerFrom_cons, hstep]
      exact ih _ _ (Nat.succ.inj h)

/-- A factor common to the start value and the coefficients is a factor of the value. -/
theorem hornerFrom_map_gfmul (x s e : Byte) (r : List Byte) :
    hornerFrom x (gfmul s e) (r.map fun c => gfmul c e) = gfmul (hornerFrom x s r) e := by
  induction r generalizing s with
  | nil => rfl
  | cons c r ih =>
    have hstep : gfmul (gfmul s e) x ^^^ gfmul c e = gfmul (gfmul s x ^^^ c) e := by
      rw [gfmul_xor_left, gfmul_assoc, gfmul_comm e x, gfmul_assoc]
    rw [List.map_cons, hornerFrom_cons, hstep]
    exact ih _

/-! ### The generator -/

/-- Multiplying by (x + e) multiplies the value at x by x + e (42_reed_solomon.md R181). -/
theorem polyEval_mulRoot (g : List Byte) (e x : Byte) : polyEval (mulRoot g e) x = gfmul (polyEval g x) (x ^^^ e) := by
  have hscaled : hornerFrom x 0 (0 :: g.map fun c => gfmul c e) = gfmul (hornerFrom x 0 g) e := by
    rw [← hornerFrom_map_gfmul, hornerFrom_cons, gfmul_zero_left, gfmul_zero_left]
    rfl
  calc polyEval (mulRoot g e) x = hornerFrom x 0 (g ++ [0]) ^^^ hornerFrom x 0 (0 :: g.map fun c => gfmul c e) :=
        hornerFrom_xor x 0 0 (by simp)
    _ = gfmul (polyEval g x) (x ^^^ e) := by
        rw [hornerFrom_append_zero, hscaled, gfmul_xor_right, polyEval_eq_hornerFrom]

theorem mulRoot_headD {g : List Byte} (h : g ≠ []) (e : Byte) : (mulRoot g e).headD 0 = g.headD 0 := by
  cases g with
  | nil => exact absurd rfl h
  | cons c g => exact BitVec.xor_zero

/-- gen(n) is monic (42_reed_solomon.md R181). -/
theorem genPoly_headD (n : Nat) : (genPoly n).headD 0 = 1 := by
  induction n with
  | zero => rfl
  | succ n ih =>
    rw [genPoly_succ, mulRoot_headD (List.ne_nil_of_length_eq_add_one (genPoly_length n)), ih]

/-- Each factor (x + α^i) of gen(n) gives it the root α^i (42_reed_solomon.md R181). -/
theorem polyEval_genPoly {n i : Nat} (hn : n ≤ 255) (hi : i < n) : polyEval (genPoly n) (alphaPow i) = 0 := by
  induction n with
  | zero => exact absurd hi (Nat.not_lt_zero i)
  | succ n ih =>
    rw [genPoly_succ, polyEval_mulRoot]
    obtain hlt | rfl := Nat.lt_succ_iff_lt_or_eq.mp hi
    · rw [ih (by omega) hlt, gfmul_zero_left]
    · rw [alphaPow_of_lt (by omega), BitVec.xor_self]
      exact gfmul_zero_right _

/-- Settles O37: the head is kept and a root is added by each factor. -/
theorem generatorIsMonicWithItsRoots : Obligations.GeneratorIsMonicWithItsRoots :=
  fun n _ hn => ⟨genPoly_length n, genPoly_headD n, fun _ hi => polyEval_genPoly hn hi⟩

/-! ### The remainder -/

/-- At a root of a monic generator the codewords so far, followed by the remainder, have the value 0; a round keeps it,
since it adds a multiple of the generator (42_reed_solomon.md R183). `p` is the value of the codewords so far. -/
theorem hornerFrom_remStep {x p r d : Byte} {g rem : List Byte} (hroot : hornerFrom x 1 g = 0)
    (hlen : rem.length + 1 = g.length) (h : hornerFrom x p (r :: rem) = 0) :
    hornerFrom x (gfmul p x ^^^ d) (remStep (1 :: g) (r :: rem) d) = 0 := by
  have hmultiple : hornerFrom x (d ^^^ r) (g.map fun c => gfmul c (d ^^^ r)) = 0 := by
    have hscaled := hornerFrom_map_gfmul x 1 (d ^^^ r) g
    rwa [hroot, gfmul_zero_left, gfmul_comm 1, gfmul_one] at hscaled
  have hshifted : hornerFrom x (gfmul p x ^^^ r) (rem ++ [0]) = 0 := by
    rw [hornerFrom_append_zero, ← hornerFrom_cons, h, gfmul_zero_left]
  have hsplit : gfmul p x ^^^ d = (gfmul p x ^^^ r) ^^^ (d ^^^ r) := by
    calc gfmul p x ^^^ d = gfmul p x ^^^ d ^^^ (r ^^^ r) := by rw [BitVec.xor_self, BitVec.xor_zero]
      _ = (gfmul p x ^^^ r) ^^^ (d ^^^ r) := by ac_rfl
  calc hornerFrom x (gfmul p x ^^^ d) (remStep (1 :: g) (r :: rem) d)
      = hornerFrom x (gfmul p x ^^^ r) (rem ++ [0]) ^^^
          hornerFrom x (d ^^^ r) (g.map fun c => gfmul c (d ^^^ r)) := by
        rw [hsplit]; exact hornerFrom_xor x _ _ (by simpa using hlen)
    _ = 0 := by rw [hshifted, hmultiple]; rfl

/-- Shifting in a whole block keeps that value 0. -/
theorem hornerFrom_foldl_remStep {x : Byte} {g : List Byte} (hroot : hornerFrom x 1 g = 0) (hg : g ≠ [])
    (data : List Byte) {p : Byte} {rem : List Byte} (hlen : rem.length = g.length) (h : hornerFrom x p rem = 0) :
    hornerFrom x p (data ++ data.foldl (remStep (1 :: g)) rem) = 0 := by
  induction data generalizing p rem with
  | nil => exact h
  | cons d data ih =>
    obtain ⟨r, rem, rfl⟩ := List.exists_cons_of_length_pos (hlen ▸ List.length_pos_iff.mpr hg)
    refine ih ?_ (hornerFrom_remStep hroot hlen h)
    rw [remStep_length (1 :: g) _ d (congrArg Nat.succ hlen.symm) (List.cons_ne_nil r rem), hlen]

/-- The codewords of a block followed by its EC codewords have the generator's roots (42_reed_solomon.md R191). -/
theorem polyEval_append_rsRem (data : List Byte) {n i : Nat} (hn : n ≤ 255) (hi : i < n) :
    polyEval (data ++ rsRem data n) (alphaPow i) = 0 := by
  obtain ⟨c, g, hg⟩ := List.exists_cons_of_length_eq_add_one (genPoly_length n)
  obtain rfl : c = 1 := by simpa [hg] using genPoly_headD n
  have hlen : n = g.length := by simpa [hg] using (genPoly_length n).symm
  have hroot : hornerFrom (alphaPow i) 1 g = 0 := by
    have hgen := polyEval_genPoly hn hi
    rw [hg, polyEval_eq_hornerFrom, hornerFrom_cons, gfmul_zero_left] at hgen
    exact hgen
  rw [polyEval_eq_hornerFrom, rsRem, hg]
  refine hornerFrom_foldl_remStep hroot (List.ne_nil_of_length_pos (by omega)) data ?_ (hornerFrom_replicate_zero _ n)
  rw [List.length_replicate, hlen]

/-- Settles O40: syndrome i is the value at the root α^i. -/
theorem encodedBlockHasZeroSyndromes : Obligations.EncodedBlockHasZeroSyndromes := by
  intro data n _ _ hn
  refine List.eq_replicate_iff.mpr ⟨syndromes_length _ n, fun b hb => ?_⟩
  obtain ⟨i, hi, rfl⟩ := List.mem_map.mp hb
  exact polyEval_append_rsRem data (by omega) (List.mem_range.mp hi)

/-! ### The commands -/

/-- What a command does whose writes are RESULT and a list of bytes `l` from the block address `a`: it completes with
success, `l` stands there, and nothing else differs (40_control.md R143, 20_memory.md R92). -/
def CompletesWithBytes (i : Instr) (s : State) (result : Word) (a : Nat) (l : List Byte) : Prop :=
  ∃ t, exec i s = .next t ∧ OnlyCsrsAndBuffersDiffer s t ∧
    t.store.csr = { s.store.csr with done := true, result := result } ∧
    (∀ j < l.length, t.store.mem.byte (a + j) = l.getD j 0) ∧
    SameBytesOutside (fun b => a ≤ b ∧ b < a + l.length) s.store t.store

theorem exec_sb {i : Instr} {s : State} {v : Word} {l : List Byte}
    (h : runInstr i s.snap = .ok { sb := placeAt 0 l, result := some v }) :
    CompletesWithBytes i s v 0x1000 l := by
  refine ⟨_, exec_ok h, State.succeed_bytes_only s _ rfl rfl rfl, rfl, fun j hj => ?_, fun b hb => ?_⟩
  · rw [List.getD_eq_getElem _ _ hj]
    exact s.store.mem.sb_after l j hj
  · exact s.store.mem.sb_other l b hb

theorem exec_cw {i : Instr} {s : State} {v : Word} {d : Nat} {l : List Byte}
    (h : runInstr i s.snap = .ok { cw := placeAt d l, result := some v }) :
    CompletesWithBytes i s v (0x2000 + d) l := by
  have hbytes : Writes.bytes { cw := placeAt d l, result := some v } = (placeAt d l).map fun p => (cwAddr p.1, p.2) :=
    List.append_nil _
  refine ⟨_, exec_ok h, State.succeed_bytes_only s _ rfl rfl rfl, rfl, fun j hj => ?_, fun b hb => ?_⟩
  · rw [List.getD_eq_getElem _ _ hj, State.succeed_store, Store.apply_mem, hbytes, Nat.add_assoc]
    exact s.store.mem.cw_after l d j hj
  · rw [State.succeed_store, Store.apply_mem, hbytes]
    exact s.store.mem.cw_other l d b hb

/-- Settles O36: RSGEN writes the n + 1 coefficients. -/
theorem rsgenWritesTheGenerator : Obligations.RsgenWritesTheGenerator := by
  intro s n hn
  have hpos : n.toNat ≠ 0 := fun h => hn (BitVec.eq_of_toNat_eq h)
  obtain ⟨t, hexec, honly, hcsr, hbytes, hframe⟩ := exec_sb (i := .rsgen n) (s := s) (runRsgen_ok n hpos)
  rw [genPoly_length] at hbytes hframe
  exact ⟨t, hexec, honly, hcsr, fun j hj => hbytes j (by omega), fun a ha => hframe a (by omega)⟩

/-- Settles O38: RSENC writes the n codewords of the remainder. -/
theorem rsencWritesTheEcCodewords : Obligations.RsencWritesTheEcCodewords := by
  intro s n k hn hk hnk hsrc hdst
  obtain ⟨t, hexec, honly, hcsr, hbytes, hframe⟩ :=
    exec_cw (i := .rsenc n k) (s := s) (runRsenc_ok n k s.snap hn hk hnk hsrc hdst)
  rw [rsRem_length _ _ hn] at hbytes hframe
  refine ⟨t, hexec, honly, hcsr, fun j hj => ?_, hframe⟩
  rw [Store.cw, cwAddr, ← Nat.add_assoc]
  exact hbytes j hj

theorem syndromes_getD (r : List Byte) {n i : Nat} (hi : i < n) :
    (syndromes r n).getD i 0 = polyEval r (alphaPow i) := by
  rw [List.getD_eq_getElem _ _ (by rwa [syndromes_length])]
  simp [syndromes, alphaPow]

/-- Settles O39: the syndromes are written, and counting the nonzero ones in the list is counting them in SB. -/
theorem rssynWritesTheSyndromes : Obligations.RssynWritesTheSyndromes := by
  intro s n l hn hl hsrc
  obtain ⟨t, hexec, honly, hcsr, hbytes, hframe⟩ :=
    exec_sb (i := .rssyn n l) (s := s) (runRssyn_ok n l s.snap hn hl hsrc)
  rw [syndromes_length] at hbytes hframe
  have hsyndrome : ∀ i < n.toNat, t.store.sb i = polyEval (s.snap.cwList s.snap.csr.src.toNat l.toNat) (alphaPow i) :=
    fun i hi => (hbytes i hi).trans (syndromes_getD _ hi)
  refine ⟨t, hexec, honly, hsyndrome, ?_, hframe⟩
  have hcount : (syndromes (s.snap.cwList s.snap.srcArg l.toNat) n.toNat).countP (· ≠ 0) =
      (List.range n.toNat).countP fun i => t.store.sb i ≠ 0 := by
    rw [syndromes, List.countP_map]
    refine List.countP_congr fun i hi => ?_
    simp only [Function.comp, hsyndrome i (List.mem_range.mp hi), alphaPow]
  rw [hcsr, hcount]
  rfl

/-- Settles O41: a legal layout makes the final sequence T codewords long. -/
theorem eccblkWritesTheFinalSequence : Obligations.EccblkWritesTheFinalSequence := by
  intro s hlegal
  obtain ⟨t, hexec, honly, hcsr, hbytes, hframe⟩ := exec_cw (i := .eccblk) (s := s) (runEccblk_ok s.snap hlegal)
  obtain ⟨-, -, hn, -⟩ := hlegal
  rw [encodeBlocks_length _ _ (cwList_length _ _ _) (Nat.ne_of_gt hn)] at hbytes hframe
  refine ⟨t, hexec, honly, hcsr, fun i hi => ?_, hframe⟩
  rw [Store.cw, cwAddr, ← Nat.add_assoc]
  exact hbytes i hi

end Sys2Proof.Machine

/-!
PROOFS. Where each codeword of the final sequence stands: a column of the interleave comes after the columns before it,
and its entries are those of the blocks that reach it (42_reed_solomon.md R187–R189).
-/

namespace Sys2Proof.Machine

/-! ### Lists of columns -/

/-- In a list of columns, column j comes after the columns before it. -/
theorem getElem?_flatMap_range {α : Type} (f : Nat → List α) {m j b : Nat} (hj : j < m) (hb : b < (f j).length) :
    ((List.range m).flatMap f)[((List.range j).flatMap f).length + b]? = (f j)[b]? := by
  obtain ⟨d, rfl⟩ := Nat.exists_eq_add_of_lt hj
  have hsplit : (List.range (j + d + 1)).flatMap f =
      (List.range j).flatMap f ++ (f j ++ (List.range d).flatMap fun i => f (j + (1 + i))) := by
    rw [Nat.add_assoc, List.range_add, Nat.add_comm d, List.range_add]
    simp [List.flatMap_map, Function.comp_def]
  rw [hsplit, List.getElem?_append_right (Nat.le_add_right _ _), Nat.add_sub_cancel_left, List.getElem?_append_left hb]

/-- Columns of one length take that length each. -/
theorem length_flatMap_range {α : Type} {f : Nat → List α} {m c : Nat} (h : ∀ j < m, (f j).length = c) :
    ((List.range m).flatMap f).length = m * c := by
  have hlengths : (List.range m).map (fun j => (f j).length) = List.replicate m c := by
    refine List.eq_replicate_iff.mpr ⟨by simp, fun l hl => ?_⟩
    obtain ⟨j, hj, rfl⟩ := List.mem_map.mp hl
    exact h j (List.mem_range.mp hj)
  rw [List.length_flatMap, hlengths, List.sum_replicate, smul_eq_mul]

/-- A column that every list reaches has one entry of each, in order (42_reed_solomon.md R189). -/
theorem getElem?_column {ls : List (List Byte)} {j : Nat} (h : ∀ l ∈ ls, j < l.length) (b : Nat) :
    (column ls j)[b]? = ls[b]?.bind (·[j]?) := by
  induction ls generalizing b with
  | nil => rfl
  | cons l ls ih =>
    obtain ⟨hl, hls⟩ := List.forall_mem_cons.mp h
    have hcons : column (l :: ls) j = l[j] :: column ls j := by
      simp [column, List.getElem?_eq_getElem hl]
    rw [hcons]
    cases b with
    | zero => simp [List.getElem?_eq_getElem hl]
    | succ b => simpa using ih hls b

theorem column_length_of_reaching {ls : List (List Byte)} {j : Nat} (h : ∀ l ∈ ls, j < l.length) :
    (column ls j).length = ls.length := by
  rw [column_length, List.countP_eq_length]
  simpa using h

theorem column_of_short {ls : List (List Byte)} {j : Nat} (h : ∀ l ∈ ls, l.length ≤ j) : column ls j = [] :=
  List.filterMap_eq_nil_iff.mpr fun l hl => List.getElem?_eq_none (h l hl)

theorem column_append (ls ls' : List (List Byte)) (j : Nat) : column (ls ++ ls') j = column ls j ++ column ls' j :=
  List.filterMap_append

/-- Column j of the data in the interleaved sequence (42_reed_solomon.md R189). -/
theorem getElem?_interleave_data {blocks : List (List Byte)} (ecs : List (List Byte)) (n : Nat) {j b : Nat}
    (hb : b < (column blocks j).length) :
    (interleave blocks ecs n)[((List.range j).flatMap (column blocks)).length + b]? = (column blocks j)[b]? := by
  have hj : j < (blocks.map List.length).foldl max 0 := by
    rw [column_length] at hb
    obtain ⟨l, hl, hlt⟩ := List.countP_pos_iff.mp (Nat.zero_lt_of_lt hb)
    exact (of_decide_eq_true hlt).trans_le (foldl_max_le _ 0 _ (.inl (List.mem_map_of_mem hl)))
  have hcolumn := getElem?_flatMap_range (column blocks) hj hb
  obtain ⟨hlt, -⟩ := List.getElem?_eq_some_iff.mp (hcolumn.trans (List.getElem?_eq_getElem hb))
  rw [interleave, List.getElem?_append_left hlt, hcolumn]

/-- Column j of the EC codewords comes after all the data (42_reed_solomon.md R189). -/
theorem getElem?_interleave_ec (blocks : List (List Byte)) {ecs : List (List Byte)} {n j b : Nat} (hj : j < n)
    (hb : b < (column ecs j).length) :
    (interleave blocks ecs n)[(blocks.map List.length).sum + ((List.range j).flatMap (column ecs)).length + b]? =
      (column ecs j)[b]? := by
  have hlength := columns_length blocks _ fun l hl => foldl_max_le _ 0 _ (.inl (List.mem_map_of_mem hl))
  rw [interleave, Nat.add_assoc, ← hlength, List.getElem?_append_right (Nat.le_add_right _ _), Nat.add_sub_cancel_left,
    getElem?_flatMap_range _ hj hb]

/-! ### The blocks of a layout -/

theorem splitBlocks_append (ks ks' : List Nat) (data : List Byte) :
    splitBlocks (ks ++ ks') data = splitBlocks ks data ++ splitBlocks ks' (data.drop ks.sum) := by
  induction ks generalizing data with
  | nil => rfl
  | cons k ks ih => simp [splitBlocks, ih]

/-- Block i of blocks of one length. -/
theorem getElem?_splitBlocks_replicate {m i : Nat} (k : Nat) (data : List Byte) (hi : i < m) :
    (splitBlocks (List.replicate m k) data)[i]? = some ((data.drop (i * k)).take k) := by
  induction m generalizing i data with
  | zero => exact absurd hi (Nat.not_lt_zero i)
  | succ m ih =>
    rw [List.replicate_succ, splitBlocks]
    cases i with
    | zero => simp
    | succ i =>
      rw [List.getElem?_cons_succ, ih _ (by omega), List.drop_drop, Nat.succ_mul, Nat.add_comm]

/-- Blocks of one length have that length when there are enough data codewords. -/
theorem length_of_mem_splitBlocks_replicate {m k : Nat} {data : List Byte} (h : m * k ≤ data.length) :
    ∀ l ∈ splitBlocks (List.replicate m k) data, l.length = k := by
  intro l hl
  have hlengths := splitBlocks_lengths (List.replicate m k) data (by simpa using h)
  exact (List.eq_replicate_iff.mp hlengths).2 _ (List.mem_map_of_mem hl)

/-- The blocks of group 1 (42_reed_solomon.md R188). -/
def Layout.group1 (y : Layout) (data : List Byte) : List (List Byte) := splitBlocks (List.replicate y.b1 y.k1) data

/-- The blocks of group 2 (42_reed_solomon.md R188). -/
def Layout.group2 (y : Layout) (data : List Byte) : List (List Byte) :=
  splitBlocks (List.replicate y.b2 y.k2) (data.drop (y.b1 * y.k1))

@[simp] theorem Layout.group1_length (y : Layout) (data : List Byte) : (y.group1 data).length = y.b1 := by
  simp [Layout.group1]

@[simp] theorem Layout.group2_length (y : Layout) (data : List Byte) : (y.group2 data).length = y.b2 := by
  simp [Layout.group2]

/-- The blocks are those of group 1, then those of group 2 (42_reed_solomon.md R188). -/
theorem splitBlocks_eq_groups (y : Layout) (data : List Byte) :
    splitBlocks y.lengths data = y.group1 data ++ y.group2 data := by
  simp [Layout.lengths, splitBlocks_append, Layout.group1, Layout.group2]

/-- Block b in numbers (42_reed_solomon.md R188). -/
theorem getElem?_splitBlocks (y : Layout) (data : List Byte) {b : Nat} (hb : b < y.b1 + y.b2) :
    (splitBlocks y.lengths data)[b]? = some (blockData y data b) := by
  rw [splitBlocks_eq_groups, blockData, blockStart, blockLength]
  by_cases h : b < y.b1
  · rw [List.getElem?_append_left (by simpa using h), Layout.group1, getElem?_splitBlocks_replicate _ _ h]
    simp only [if_pos h]
  · rw [List.getElem?_append_right (by simpa using h), y.group1_length, Layout.group2,
      getElem?_splitBlocks_replicate _ _ (by omega), List.drop_drop]
    simp only [if_neg h]

theorem getElem?_blockData (y : Layout) (data : List Byte) {b j : Nat} (hj : j < blockLength y b) :
    (blockData y data b)[j]? = data[blockStart y b + j]? := by
  rw [blockData, List.getElem?_take_of_lt hj, List.getElem?_drop]

/-! ### The columns of a legal layout -/

/-- The blocks with the layout's lengths reach at least column K1 (42_reed_solomon.md R187: K1 ≤ K2). -/
theorem lt_length_of_mem_splitBlocks {y : Layout} {data : List Byte} (hlegal : y.Legal)
    (hdata : data.length = y.dataTotal) {j : Nat} (hj : j < y.k1) : ∀ l ∈ splitBlocks y.lengths data, j < l.length := by
  intro l hl
  obtain ⟨-, -, -, -, hk, -⟩ := hlegal
  have hlengths := List.mem_map_of_mem (f := List.length) hl
  rw [splitBlocks_lengths _ _ (by rw [y.lengths_sum, hdata]), Layout.lengths, List.mem_append, List.mem_replicate,
    List.mem_replicate] at hlengths
  omega

section
variable {y : Layout} {data : List Byte} (hdata : data.length = y.dataTotal)
include hdata

theorem length_of_mem_group1 : ∀ l ∈ y.group1 data, l.length = y.k1 :=
  length_of_mem_splitBlocks_replicate (by rw [hdata, Layout.dataTotal]; omega)

theorem length_of_mem_group2 : ∀ l ∈ y.group2 data, l.length = y.k2 :=
  length_of_mem_splitBlocks_replicate (by rw [List.length_drop, hdata, Layout.dataTotal]; omega)

/-- Past the blocks of group 1 a column has those of group 2 alone. -/
theorem column_splitBlocks_of_le {j : Nat} (hj : y.k1 ≤ j) :
    column (splitBlocks y.lengths data) j = column (y.group2 data) j := by
  rw [splitBlocks_eq_groups, column_append, column_of_short, List.nil_append]
  intro l hl
  rw [length_of_mem_group1 hdata l hl]
  exact hj

theorem column_group2_length {j : Nat} (hj : j < y.k2) : (column (y.group2 data) j).length = y.b2 := by
  rw [column_length_of_reaching, y.group2_length]
  intro l hl
  rw [length_of_mem_group2 hdata l hl]
  exact hj

/-- Codeword j of block b of group 2 in a column of that group alone. -/
theorem getElem?_column_group2 {j b : Nat} (hj : j < y.k2) (hlow : y.b1 ≤ b) (hb : b < y.b1 + y.b2) :
    (column (y.group2 data) j)[b - y.b1]? = data[blockStart y b + j]? := by
  have hblock : (y.group2 data)[b - y.b1]? = some (blockData y data b) := by
    rw [← getElem?_splitBlocks y data hb, splitBlocks_eq_groups, List.getElem?_append_right (by simpa using hlow),
      y.group1_length]
  have hreach : ∀ l ∈ y.group2 data, j < l.length := fun l hl => hj.trans_eq (length_of_mem_group2 hdata l hl).symm
  rw [getElem?_column hreach, hblock]
  exact getElem?_blockData y data (by rwa [blockLength, if_neg (by omega)])

/-- EC column j of the final sequence. -/
theorem getElem?_encodeBlocks_ec {j b : Nat} (hj : j < y.n) (hb : b < y.b1 + y.b2) :
    (encodeBlocks y data)[y.dataTotal + j * (y.b1 + y.b2) + b]? = (rsRem (blockData y data b) y.n)[j]? := by
  have hreach : ∀ i < y.n, ∀ l ∈ (splitBlocks y.lengths data).map fun b => rsRem b y.n, i < l.length := by
    intro i hi l hl
    obtain ⟨block, -, rfl⟩ := List.mem_map.mp hl
    rwa [rsRem_length _ _ (by omega)]
  have hlength : ∀ i < y.n,
      (column ((splitBlocks y.lengths data).map fun b => rsRem b y.n) i).length = y.b1 + y.b2 := by
    intro i hi
    rw [column_length_of_reaching (hreach i hi), List.length_map, splitBlocks_length, y.lengths_length]
  have htotal : ((splitBlocks y.lengths data).map List.length).sum = y.dataTotal := by
    rw [splitBlocks_lengths _ _ (by rw [y.lengths_sum, hdata]), y.lengths_sum]
  rw [encodeBlocks, ← htotal, ← length_flatMap_range fun i hi => hlength i (hi.trans hj),
    getElem?_interleave_ec _ hj (by rwa [hlength j hj]), getElem?_column (hreach j hj), List.getElem?_map,
    getElem?_splitBlocks y data hb]
  rfl

variable (hlegal : y.Legal)
include hlegal

theorem column_splitBlocks_length {j : Nat} (hj : j < y.k1) :
    (column (splitBlocks y.lengths data) j).length = y.b1 + y.b2 := by
  rw [column_length_of_reaching (lt_length_of_mem_splitBlocks hlegal hdata hj), splitBlocks_length, y.lengths_length]

/-- Codeword j of block b in a column of both groups. -/
theorem getElem?_column_splitBlocks {j b : Nat} (hj : j < y.k1) (hb : b < y.b1 + y.b2) :
    (column (splitBlocks y.lengths data) j)[b]? = data[blockStart y b + j]? := by
  rw [getElem?_column (lt_length_of_mem_splitBlocks hlegal hdata hj), getElem?_splitBlocks y data hb]
  obtain ⟨-, -, -, -, hk, -⟩ := hlegal
  refine getElem?_blockData y data ?_
  rw [blockLength]
  split <;> omega

/-- The columns before a column j ≥ K1: K1 of both groups, then those of group 2 alone. -/
theorem length_columns_splitBlocks {j : Nat} (hlow : y.k1 ≤ j) (hj : j ≤ y.k2) :
    ((List.range j).flatMap (column (splitBlocks y.lengths data))).length =
      y.k1 * (y.b1 + y.b2) + (j - y.k1) * y.b2 := by
  obtain ⟨d, rfl⟩ := Nat.exists_eq_add_of_le hlow
  rw [List.range_add, List.flatMap_append, List.length_append, List.flatMap_map,
    length_flatMap_range fun i hi => column_splitBlocks_length hdata hlegal hi, length_flatMap_range (c := y.b2),
    Nat.add_sub_cancel_left]
  intro i hi
  rw [column_splitBlocks_of_le hdata (by omega), column_group2_length hdata (by omega)]

/-- Data column j < K1 of the final sequence. -/
theorem getElem?_encodeBlocks_low {j b : Nat} (hj : j < y.k1) (hb : b < y.b1 + y.b2) :
    (encodeBlocks y data)[j * (y.b1 + y.b2) + b]? = data[blockStart y b + j]? := by
  have hbefore := length_flatMap_range fun i (hi : i < j) => column_splitBlocks_length hdata hlegal (hi.trans hj)
  rw [encodeBlocks, ← hbefore, getElem?_interleave_data _ _ (by rwa [column_splitBlocks_length hdata hlegal hj]),
    getElem?_column_splitBlocks hdata hlegal hj hb]

/-- Data column j ≥ K1 of the final sequence. -/
theorem getElem?_encodeBlocks_high {j b : Nat} (hj : y.k1 ≤ j) (hj' : j < y.k2) (hb : y.b1 ≤ b)
    (hb' : b < y.b1 + y.b2) :
    (encodeBlocks y data)[y.k1 * (y.b1 + y.b2) + (j - y.k1) * y.b2 + (b - y.b1)]? = data[blockStart y b + j]? := by
  have hcolumn := column_splitBlocks_of_le hdata hj
  have hlt : b - y.b1 < (column (splitBlocks y.lengths data) j).length := by
    rw [hcolumn, column_group2_length hdata hj']
    omega
  rw [encodeBlocks, ← length_columns_splitBlocks hdata hlegal hj (Nat.le_of_lt hj'), getElem?_interleave_data _ _ hlt,
    hcolumn, getElem?_column_group2 hdata hj' hb hb']

end

/-- Settles O42: a column that all the blocks reach has B entries, a column of group 2 alone has B2. -/
theorem interleavePositions : Obligations.InterleavePositions := by
  intro y data hlegal hdata
  have hn : y.n ≠ 0 := by omega
  exact ⟨encodeBlocks_length y data hdata hn, fun j hj b hb => getElem?_encodeBlocks_low hdata hlegal hj hb,
    fun j hj hj' b hb hb' => getElem?_encodeBlocks_high hdata hlegal hj hj' hb hb',
    fun j hj b hb => getElem?_encodeBlocks_ec hdata hj hb⟩

end Sys2Proof.Machine

/-!
PROOFS. The matrix MXINIT builds. Which modules each of steps 2 to 7 writes and the regions of the function modules are
told in numbers; that the alignment patterns keep clear of each other and of every other pattern but timing is read off
the coordinates of the table (43_matrix.md R211–R221).
-/

namespace Sys2Proof.Machine

/-! ### Distances -/

theorem absDiff_le_iff (a b d : Nat) : absDiff a b ≤ d ↔ a ≤ b + d ∧ b ≤ a + d := by
  unfold absDiff
  split <;> omega

theorem absDiff_add_left (a b c : Nat) : absDiff (a + b) (a + c) = absDiff b c := by
  unfold absDiff
  split <;> split <;> omega

theorem absDiff_add_sub {a d : Nat} (b : Nat) (h : d ≤ a) : absDiff (a + b - d) a = absDiff b d := by
  unfold absDiff
  split <;> split <;> omega

/-- An entry that alone in its list meets a test is the one found. -/
theorem find?_eq_some_of_unique {α : Type} {l : List α} {p : α → Bool} {a : α} (ha : a ∈ l) (hp : p a = true)
    (hunique : ∀ b ∈ l, p b = true → b = a) : l.find? p = some a := by
  obtain ⟨b, hb⟩ := Option.isSome_iff_exists.mp (List.find?_isSome.mpr ⟨a, ha, hp⟩)
  rw [hb, hunique b (List.mem_of_find?_eq_some hb) (List.find?_some hb)]

/-! ### Alignment patterns -/

/-- What the table of 43_matrix.md R215 says of a coordinate: it is even and 6, 4V + 10 or well between the two, the
last is 4V + 10, and any two are at least 12 apart. -/
theorem alignCoords_table : ∀ v < 41, 1 ≤ v → ∀ a ∈ alignCoords v,
    2 ≤ v ∧ a % 2 = 0 ∧ (a = 6 ∨ a = 4 * v + 10 ∨ (18 ≤ a ∧ a + 12 ≤ 4 * v + 10)) ∧
      (alignCoords v).foldl max 0 = 4 * v + 10 ∧ ∀ b ∈ alignCoords v, a = b ∨ a + 12 ≤ b ∨ b + 12 ≤ a := by
  decide +kernel

/-- Module (r, c) is in the 5 × 5 square around k (43_matrix.md R216). -/
def Covers (k : Nat × Nat) (r c : Nat) : Prop := r ≤ k.1 + 2 ∧ k.1 ≤ r + 2 ∧ c ≤ k.2 + 2 ∧ k.2 ≤ c + 2

/-- Module (r, c) is in an alignment pattern (43_matrix.md R216). -/
def InAlignment (v r c : Nat) : Prop := ∃ k ∈ alignCentres v, Covers k r c

theorem covers_iff (k : Nat × Nat) (r c : Nat) :
    (decide (absDiff r k.1 ≤ 2) && decide (absDiff c k.2 ≤ 2)) = true ↔ Covers k r c := by
  simp [absDiff_le_iff, Covers, and_assoc]

section
variable {v : Nat} (h1 : 1 ≤ v) (h40 : v ≤ 40)
include h1 h40

/-- The centres are all pairs of coordinates but those on the three finders (43_matrix.md R216). -/
theorem mem_alignCentres (a b : Nat) :
    (a, b) ∈ alignCentres v ↔ a ∈ alignCoords v ∧ b ∈ alignCoords v ∧
      ¬ (a = 6 ∧ b = 6) ∧ ¬ (a = 6 ∧ b = 4 * v + 10) ∧ ¬ (a = 4 * v + 10 ∧ b = 6) := by
  by_cases ha : a ∈ alignCoords v
  · obtain ⟨-, -, -, hlast, -⟩ := alignCoords_table v (by omega) h1 a ha
    simp [alignCentres, hlast, ha, and_assoc, imp_iff_not_or]
  · simp [alignCentres, ha]

/-- Where a centre can stand: away from the finders, on even coordinates. -/
theorem alignCentre_bounds {a b : Nat} (hk : (a, b) ∈ alignCentres v) :
    a % 2 = 0 ∧ b % 2 = 0 ∧ (a = 6 ∨ 18 ≤ a) ∧ (b = 6 ∨ 18 ≤ b) ∧ a ≤ 4 * v + 10 ∧ b ≤ 4 * v + 10 ∧
      (a = 6 → 18 ≤ b ∧ b + 2 ≤ 4 * v) ∧ (b = 6 → 18 ≤ a ∧ a + 2 ≤ 4 * v) := by
  obtain ⟨ha, hb, hnot⟩ := (mem_alignCentres h1 h40 a b).mp hk
  obtain ⟨hv, haeven, ha, -⟩ := alignCoords_table v (by omega) h1 a ha
  obtain ⟨-, hbeven, hb, -⟩ := alignCoords_table v (by omega) h1 b hb
  omega

/-- Where an alignment pattern can reach: not near two edges of the square at once, except at its lower right. -/
theorem InAlignment.bounds {r c : Nat} (h : InAlignment v r c) :
    4 ≤ r ∧ r ≤ 4 * v + 12 ∧ 4 ≤ c ∧ c ≤ 4 * v + 12 ∧ (r ≤ 8 → 16 ≤ c ∧ c ≤ 4 * v) ∧ (c ≤ 8 → 16 ≤ r ∧ r ≤ 4 * v) := by
  obtain ⟨⟨a, b⟩, hk, hcovers⟩ := h
  have hbounds := alignCentre_bounds h1 h40 hk
  simp only [Covers] at hcovers
  omega

/-- Alignment patterns do not overlap. -/
theorem alignCentre_unique {k k' : Nat × Nat} (hk : k ∈ alignCentres v) (hk' : k' ∈ alignCentres v) {r c : Nat}
    (hc : Covers k r c) (hc' : Covers k' r c) : k' = k := by
  obtain ⟨a, b⟩ := k
  obtain ⟨a', b'⟩ := k'
  obtain ⟨ha, hb, -⟩ := (mem_alignCentres h1 h40 a b).mp hk
  obtain ⟨ha', hb', -⟩ := (mem_alignCentres h1 h40 a' b').mp hk'
  obtain ⟨-, -, -, -, hrow⟩ := alignCoords_table v (by omega) h1 a ha
  obtain ⟨-, -, -, -, hcol⟩ := alignCoords_table v (by omega) h1 b hb
  have hrow := hrow a' ha'
  have hcol := hcol b' hb'
  simp only [Covers] at hc hc'
  rw [Prod.mk.injEq]
  omega

theorem alignmentStep_of_covers {k : Nat × Nat} (hk : k ∈ alignCentres v) {r c : Nat} (hc : Covers k r c) :
    alignmentStep v r c = some (decide (ringIndex r c k.1 k.2 ≠ 1)) := by
  have hfind : alignCentreOf v r c = some k :=
    find?_eq_some_of_unique hk ((covers_iff k r c).mpr hc) fun k' hk' hc' =>
      alignCentre_unique h1 h40 hk hk' hc ((covers_iff k' r c).mp hc')
  rw [alignmentStep, hfind, Option.map_some]

end

theorem alignmentStep_isSome (v r c : Nat) : (alignmentStep v r c).isSome = true ↔ InAlignment v r c := by
  simp [alignmentStep, alignCentreOf, InAlignment, Covers, absDiff_le_iff, and_assoc]

theorem alignmentStep_eq_none {v r c : Nat} (h : ¬ InAlignment v r c) : alignmentStep v r c = none := by
  rwa [← alignmentStep_isSome, Option.not_isSome_iff_eq_none] at h

/-! ### What each step writes -/

theorem inCornerSquare_iff (v r c : Nat) :
    inCornerSquare v r c = true ↔ (r ≤ 7 ∧ c ≤ 7) ∨ (r ≤ 7 ∧ 4 * v + 9 ≤ c) ∨ (4 * v + 9 ≤ r ∧ c ≤ 7) := by
  simp only [inCornerSquare, sideLength, Bool.or_eq_true, Bool.and_eq_true, decide_eq_true_eq]
  omega

theorem finderStep_isSome (v r c : Nat) : (finderStep v r c).isSome = true ↔
    (r ≤ 6 ∧ c ≤ 6) ∨ (r ≤ 6 ∧ 4 * v + 10 ≤ c ∧ c ≤ 4 * v + 16) ∨ (4 * v + 10 ≤ r ∧ r ≤ 4 * v + 16 ∧ c ≤ 6) := by
  simp only [finderStep, finderCorners, sideLength, Option.isSome_map, List.find?_isSome, List.mem_cons,
    List.not_mem_nil, or_false, exists_eq_or_imp, exists_eq_left, Bool.and_eq_true, decide_eq_true_eq]
  omega

/-- No two finders overlap (43_matrix.md R213). -/
theorem finderStep_of_mem {v : Nat} {k : Nat × Nat} (hk : k ∈ finderCorners v) {dr dc : Nat} (hr : dr ≤ 6)
    (hc : dc ≤ 6) : finderStep v (k.1 + dr) (k.2 + dc) = some (decide (max (absDiff dr 3) (absDiff dc 3) ≠ 2)) := by
  unfold finderStep
  rw [find?_eq_some_of_unique hk (by simp only [Bool.and_eq_true, decide_eq_true_eq]; omega)]
  · simp [ringIndex, absDiff_add_left]
  · intro k' hk' hin
    simp only [finderCorners, sideLength, List.mem_cons, List.not_mem_nil, or_false] at hk hk'
    simp only [Bool.and_eq_true, decide_eq_true_eq] at hin
    obtain ⟨a, b⟩ := k
    obtain ⟨a', b'⟩ := k'
    simp only [Prod.mk.injEq] at hk hk' hin ⊢
    omega

/-- Steps 2 to 4 write the corner squares, in which the finders lie, and the alignment patterns. -/
theorem patternSteps_isSome (v r c : Nat) :
    (patternSteps v r c).isSome = true ↔ InAlignment v r c ∨ inCornerSquare v r c = true := by
  have hfinder : (finderStep v r c).isSome = true → inCornerSquare v r c = true := by
    rw [finderStep_isSome, inCornerSquare_iff]
    omega
  simp only [patternSteps, separatorStep, Option.isSome_or, Bool.or_eq_true, alignmentStep_isSome]
  cases hf : (finderStep v r c).isSome
  · simp [Option.isSome_eq_false_iff.mp hf]
  · simp [hfinder hf]

theorem isFormatModule_iff (v r c : Nat) : isFormatModule v r c = true ↔
    (r = 8 ∧ (c ≤ 5 ∨ c = 7 ∨ c = 8)) ∨ (c = 8 ∧ (r ≤ 5 ∨ r = 7)) ∨ (r = 8 ∧ 4 * v + 9 ≤ c ∧ c < 4 * v + 17) ∨
      (c = 8 ∧ 4 * v + 10 ≤ r ∧ r < 4 * v + 17) := by
  simp only [isFormatModule, sideLength, Bool.or_eq_true, Bool.and_eq_true, decide_eq_true_eq]
  omega

theorem isVersionModule_iff (v r c : Nat) : isVersionModule v r c = true ↔
    7 ≤ v ∧ ((r ≤ 5 ∧ 4 * v + 6 ≤ c ∧ c ≤ 4 * v + 8) ∨ (c ≤ 5 ∧ 4 * v + 6 ≤ r ∧ r ≤ 4 * v + 8)) := by
  simp only [isVersionModule, sideLength, Bool.or_eq_true, Bool.and_eq_true, decide_eq_true_eq]
  omega

/-- The function modules, region by region (43_matrix.md R221). -/
theorem isFunc_iff (v r c : Nat) : isFunc v r c = true ↔
    inCornerSquare v r c = true ∨ r = 6 ∨ c = 6 ∨ (r = 4 * v + 9 ∧ c = 8) ∨ (r = 8 ∧ (c ≤ 8 ∨ 4 * v + 9 ≤ c)) ∨
      (c = 8 ∧ (r ≤ 8 ∨ 4 * v + 9 ≤ r)) ∨ isVersionModule v r c = true ∨ InAlignment v r c := by
  have hn : sideLength v ≤ c + 8 ↔ 4 * v + 9 ≤ c := by rw [sideLength]; omega
  have hn' : sideLength v ≤ r + 8 ↔ 4 * v + 9 ≤ r := by rw [sideLength]; omega
  simp [isFunc, inCornerSquare, isVersionModule, InAlignment, Covers, absDiff_le_iff, hn, hn', or_assoc, and_assoc]

theorem timingStep_isSome (v r c : Nat) : (timingStep v r c).isSome = true ↔
    (patternSteps v r c).isSome = false ∧ ((r = 6 ∧ 8 ≤ c ∧ c ≤ 4 * v + 8) ∨ (c = 6 ∧ 8 ≤ r ∧ r ≤ 4 * v + 8)) := by
  rw [timingStep, sideLength]
  cases hp : (patternSteps v r c).isSome
  · rw [if_neg Bool.false_ne_true]
    split_ifs with hrow hcol <;>
      simp only [Option.isSome_some, Option.isSome_none, Bool.false_eq_true, true_and, true_iff, false_iff] <;> omega
  · simp

/-- Settles O44: outside the corner squares and the alignment patterns, rows and columns 6 and 8 hold the timing, format
and dark modules that R221 names. -/
theorem functionModulesAreTheWrittenOnes : Obligations.FunctionModulesAreTheWrittenOnes := by
  intro v _ _ r hr c hc
  have hdark : (darkStep v r c).isSome = true ↔ r = 4 * v + 9 ∧ c = 8 := by simp [darkStep]
  have hreserve : (reserveStep v r c).isSome = true ↔ isFormatModule v r c = true ∨ isVersionModule v r c = true := by
    simp [reserveStep]
  simp only [functionSteps, Option.isSome_or, Bool.or_eq_true, hreserve, hdark, timingStep_isSome, isFunc_iff]
  by_cases hpattern : (patternSteps v r c).isSome = true
  · rcases (patternSteps_isSome v r c).mp hpattern with h | h <;> simp [h, hpattern]
  by_cases hversion : isVersionModule v r c = true
  · simp [hversion]
  rw [patternSteps_isSome, not_or, inCornerSquare_iff] at hpattern
  obtain ⟨halign, hcorner⟩ := hpattern
  simp only [patternSteps_isSome, isFormatModule_iff, halign, hversion, hcorner, inCornerSquare_iff, Bool.eq_false_iff,
    ne_eq, false_or, or_false, not_false_eq_true, true_and, Bool.false_eq_true]
  omega

/-! ### The values of the modules -/

/-- A reserved module is 0, whatever the steps before gave it (43_matrix.md R219, R220). -/
theorem initModule_reserved {v r c : Nat} (h : isFormatModule v r c = true ∨ isVersionModule v r c = true) :
    initModule v r c = false := by
  simp [initModule, functionSteps, reserveStep, h]

/-- The modules that are not reserved, in numbers (43_matrix.md R219, R220). -/
theorem reserveStep_eq_none {v r c : Nat}
    (hformat : ¬ ((r = 8 ∧ (c ≤ 5 ∨ c = 7 ∨ c = 8)) ∨ (c = 8 ∧ (r ≤ 5 ∨ r = 7)) ∨
      (r = 8 ∧ 4 * v + 9 ≤ c ∧ c < 4 * v + 17) ∨ (c = 8 ∧ 4 * v + 10 ≤ r ∧ r < 4 * v + 17)))
    (hversion : ¬ ((r ≤ 5 ∧ 4 * v + 6 ≤ c ∧ c ≤ 4 * v + 8) ∨ (c ≤ 5 ∧ 4 * v + 6 ≤ r ∧ r ≤ 4 * v + 8))) :
    reserveStep v r c = none := by
  rw [← isFormatModule_iff] at hformat
  have hversion : ¬ isVersionModule v r c = true := fun h => hversion ((isVersionModule_iff v r c).mp h).2
  simp [reserveStep, hformat, hversion]

/-- After steps 2 to 4 only the dark module and the reservation can change a module they wrote (43_matrix.md R211,
R217). -/
theorem initModule_of_pattern {v r c : Nat} {b : Bool} (hp : patternSteps v r c = some b)
    (hdark : ¬ (r = 4 * v + 9 ∧ c = 8)) (hreserve : reserveStep v r c = none ∨ b = false) : initModule v r c = b := by
  have htiming : timingStep v r c = none := by simp [timingStep, hp]
  rw [initModule, functionSteps, darkStep, if_neg hdark, htiming, hp]
  rcases hreserve with h | rfl
  · simp [h]
  · simp only [reserveStep]
    split <;> rfl

section
variable {v : Nat} (h1 : 1 ≤ v) (h40 : v ≤ 40)
include h1 h40

/-- The alignment patterns keep clear of the corner squares (43_matrix.md R216). -/
theorem not_inAlignment_of_inCornerSquare {r c : Nat} (h : inCornerSquare v r c = true) : ¬ InAlignment v r c := by
  intro halign
  have hbounds := halign.bounds h1 h40
  rw [inCornerSquare_iff] at h
  omega

/-- Finders (43_matrix.md R213). -/
theorem initModule_finder {k : Nat × Nat} (hk : k ∈ finderCorners v) {dr dc : Nat} (hr : dr ≤ 6) (hc : dc ≤ 6) :
    initModule v (k.1 + dr) (k.2 + dc) = decide (max (absDiff dr 3) (absDiff dc 3) ≠ 2) := by
  have hfinder := finderStep_of_mem hk hr hc
  have hrange := (finderStep_isSome v (k.1 + dr) (k.2 + dc)).mp (by rw [hfinder]; rfl)
  have halign := not_inAlignment_of_inCornerSquare h1 h40 ((inCornerSquare_iff v (k.1 + dr) (k.2 + dc)).mpr (by omega))
  refine initModule_of_pattern ?_ (by omega) (.inl (reserveStep_eq_none (by omega) (by omega)))
  simp [patternSteps, alignmentStep_eq_none halign, separatorStep, hfinder]

/-- Separators (43_matrix.md R214). -/
theorem initModule_separator {r c : Nat} (hcorner : inCornerSquare v r c = true)
    (hfinder : ¬ (finderStep v r c).isSome = true) : initModule v r c = false := by
  have halign := not_inAlignment_of_inCornerSquare h1 h40 hcorner
  refine initModule_of_pattern ?_ ?_ (.inr rfl)
  · simp [patternSteps, alignmentStep_eq_none halign, separatorStep, hcorner, Option.not_isSome_iff_eq_none.mp hfinder]
  · rw [inCornerSquare_iff] at hcorner; omega

/-- The alignment patterns are not touched by the later steps (43_matrix.md R216–R220). -/
theorem initModule_of_covers {k : Nat × Nat} (hk : k ∈ alignCentres v) {r c : Nat} (hc : Covers k r c) :
    initModule v r c = decide (ringIndex r c k.1 k.2 ≠ 1) := by
  have hbounds := InAlignment.bounds h1 h40 ⟨k, hk, hc⟩
  refine initModule_of_pattern ?_ (by omega) (.inl (reserveStep_eq_none (by omega) (by omega)))
  simp [patternSteps, alignmentStep_of_covers h1 h40 hk hc]

/-- Alignment patterns, by the distance from the top left module of the 5 × 5 square (43_matrix.md R216). -/
theorem initModule_alignment {k : Nat × Nat} (hk : k ∈ alignCentres v) {dr dc : Nat} (hr : dr ≤ 4) (hc : dc ≤ 4) :
    initModule v (k.1 + dr - 2) (k.2 + dc - 2) = decide (max (absDiff dr 2) (absDiff dc 2) ≠ 1) := by
  have hbounds := alignCentre_bounds h1 h40 hk
  rw [initModule_of_covers h1 h40 hk (by unfold Covers; omega), ringIndex, absDiff_add_sub dr (by omega),
    absDiff_add_sub dc (by omega)]

/-- The timing row and column: an alignment pattern on them has an even centre, so that its dark modules there are those
at even indices too (43_matrix.md R217). -/
theorem initModule_timing {r c i : Nat} (hi : 8 ≤ i) (hi' : i ≤ 8 + 4 * v) (h : (r = 6 ∧ c = i) ∨ (c = 6 ∧ r = i)) :
    initModule v r c = decide (i % 2 = 0) := by
  by_cases halign : InAlignment v r c
  · obtain ⟨⟨a, b⟩, hk, hcovers⟩ := halign
    have hbounds := alignCentre_bounds h1 h40 hk
    rw [initModule_of_covers h1 h40 hk hcovers]
    simp only [Covers, ringIndex, absDiff] at hcovers ⊢
    rw [decide_eq_decide]
    split_ifs <;> omega
  · have hpattern : patternSteps v r c = none := by
      rw [← Option.not_isSome_iff_eq_none, patternSteps_isSome, inCornerSquare_iff, not_or]
      exact ⟨halign, by omega⟩
    have hreserve : reserveStep v r c = none := reserveStep_eq_none (by omega) (by omega)
    have hdark : darkStep v r c = none := if_neg (by omega)
    have htiming : timingStep v r c = some (decide (i % 2 = 0)) := by
      rcases h with ⟨rfl, rfl⟩ | ⟨rfl, rfl⟩
      · have hrow : 8 ≤ c ∧ c + 9 ≤ sideLength v := by rw [sideLength]; omega
        simp [timingStep, hpattern, hrow]
      · have hcol : 8 ≤ r ∧ r + 9 ≤ sideLength v := by rw [sideLength]; omega
        have hrow : ¬ r = 6 := by omega
        simp [timingStep, hpattern, hcol, hrow]
    simp [initModule, functionSteps, hreserve, hdark, htiming]

end

/-- The dark module stands between the reserved modules (43_matrix.md R218, R219). -/
theorem initModule_dark (v : Nat) (h1 : 1 ≤ v) : initModule v (4 * v + 9) 8 = true := by
  have hreserve : reserveStep v (4 * v + 9) 8 = none := reserveStep_eq_none (by omega) (by omega)
  simp [initModule, functionSteps, hreserve, darkStep]

/-- No step writes a data module after step 1 (43_matrix.md R212, R221). -/
theorem initModule_data {v : Nat} (h1 : 1 ≤ v) (h40 : v ≤ 40) {r c : Nat} (hr : r < 17 + 4 * v) (hc : c < 17 + 4 * v)
    (h : isFunc v r c = false) : initModule v r c = false := by
  have hsteps : functionSteps v r c = none := by
    rw [← Option.not_isSome_iff_eq_none, ← functionModulesAreTheWrittenOnes v h1 h40 r hr c hc, h]
    exact Bool.false_ne_true
  rw [initModule, hsteps, Option.getD_none]

/-- Settles O45: each clause is the lemma of its pattern, and the separators are the modules of the corner squares
outside the finders. -/
theorem structuralPatterns : Obligations.StructuralPatterns := by
  intro v h1 h40
  refine ⟨fun r0 c0 hk dr hr dc hc => ?_, fun i hi => ?_,
    fun k hk dr hr dc hc => initModule_alignment h1 h40 hk hr hc,
    fun i hi hi' =>
      ⟨initModule_timing h1 h40 hi hi' (.inl ⟨rfl, rfl⟩), initModule_timing h1 h40 hi hi' (.inr ⟨rfl, rfl⟩)⟩,
    initModule_dark v h1, fun r c => initModule_reserved, fun r hr c hc => initModule_data h1 h40 hr hc⟩
  · have hn : sideLength v - 7 = 10 + 4 * v := by rw [sideLength]; omega
    exact initModule_finder h1 h40 (k := (r0, c0)) (by rwa [finderCorners, hn]) hr hc
  · have separator {r c : Nat} (hcorner : (r ≤ 7 ∧ c ≤ 7) ∨ (r ≤ 7 ∧ 4 * v + 9 ≤ c) ∨ (4 * v + 9 ≤ r ∧ c ≤ 7))
        (hedge : r = 7 ∨ c = 7 ∨ r = 4 * v + 9 ∨ c = 4 * v + 9) : initModule v r c = false := by
      refine initModule_separator h1 h40 ((inCornerSquare_iff v r c).mpr hcorner) ?_
      rw [finderStep_isSome]
      omega
    refine ⟨separator ?_ ?_, separator ?_ ?_, separator ?_ ?_, separator ?_ ?_, separator ?_ ?_, separator ?_ ?_⟩ <;>
      omega

end Sys2Proof.Machine

/-!
PROOFS. How many data modules a version has. The open part of the square is counted as a square of rows and columns
without its three corners, and so are the alignment patterns in it (43_matrix.md R222).
-/

namespace Sys2Proof.Machine

/-! ### Counting modules -/

/-- The data modules of a version's square (43_matrix.md R221). -/
def dataSet (v : Nat) : Finset (Nat × Nat) :=
  {m ∈ Finset.range (17 + 4 * v) ×ˢ Finset.range (17 + 4 * v) | isFunc v m.1 m.2 = false}

theorem mem_dataSet {v r c : Nat} :
    (r, c) ∈ dataSet v ↔ r < 17 + 4 * v ∧ c < 17 + 4 * v ∧ isFunc v r c = false := by
  simp [dataSet, and_assoc]

/-- DM(V) counts them (43_matrix.md R222). -/
theorem dataModules_eq_card (v : Nat) : dataModules v = (dataSet v).card := by
  have hrow (r : Nat) : ((List.range (sideLength v)).countP fun c => !isFunc v r c) =
      ∑ c ∈ Finset.range (17 + 4 * v), if isFunc v r c = false then 1 else 0 := by
    rw [← Finset.card_filter, List.countP_eq_length_filter]
    exact congrArg List.length (List.filter_congr fun c _ => by simp)
  rw [dataModules, dataSet, Finset.card_filter, Finset.sum_product]
  simp only [hrow]
  rfl

/-- The square of U without the three squares that the sets A and B of a corner cut out of it: A × A, A × B, B × A. -/
def withoutCorners (U A B : Finset Nat) : Finset (Nat × Nat) := (U ×ˢ U) \ (A ×ˢ A ∪ (A ×ˢ B ∪ B ×ˢ A))

theorem mem_withoutCorners {U A B : Finset Nat} {r c : Nat} :
    (r, c) ∈ withoutCorners U A B ↔
      (r ∈ U ∧ c ∈ U) ∧ ¬ (r ∈ A ∧ c ∈ A) ∧ ¬ (r ∈ A ∧ c ∈ B) ∧ ¬ (r ∈ B ∧ c ∈ A) := by
  simp only [withoutCorners, Finset.mem_sdiff, Finset.mem_product, Finset.mem_union, not_or]

theorem card_withoutCorners {U A B : Finset Nat} (hA : A ⊆ U) (hB : B ⊆ U) (hAB : Disjoint A B) :
    (withoutCorners U A B).card + (A.card * A.card + 2 * (A.card * B.card)) = U.card * U.card := by
  have hcut : A ×ˢ A ∪ (A ×ˢ B ∪ B ×ˢ A) ⊆ U ×ˢ U :=
    Finset.union_subset (Finset.product_subset_product hA hA)
      (Finset.union_subset (Finset.product_subset_product hA hB) (Finset.product_subset_product hB hA))
  have hcard : (A ×ˢ A ∪ (A ×ˢ B ∪ B ×ˢ A)).card = A.card * A.card + 2 * (A.card * B.card) := by
    rw [Finset.card_union_of_disjoint, Finset.card_union_of_disjoint, Finset.card_product, Finset.card_product,
      Finset.card_product]
    · ring
    · exact Finset.disjoint_product.mpr (.inl hAB)
    · rw [Finset.disjoint_union_right]
      exact ⟨Finset.disjoint_product.mpr (.inr hAB), Finset.disjoint_product.mpr (.inl hAB)⟩
  rw [← hcard, withoutCorners, Finset.card_sdiff_add_card_eq_card hcut, Finset.card_product]

/-- The modules outside the three corners with their format and dark modules and outside rows and columns 6
(43_matrix.md R214, R217–R219). -/
def openSet (v : Nat) : Finset (Nat × Nat) :=
  withoutCorners ((Finset.range (17 + 4 * v)).erase 6) ((Finset.range 9).erase 6) (Finset.Ico (4 * v + 9) (4 * v + 17))

theorem mem_openSet {v r c : Nat} :
    (r, c) ∈ openSet v ↔ ((r < 17 + 4 * v ∧ c < 17 + 4 * v) ∧ r ≠ 6 ∧ c ≠ 6) ∧ ¬ (r ≤ 8 ∧ c ≤ 8) ∧
      ¬ (r ≤ 8 ∧ 4 * v + 9 ≤ c) ∧ ¬ (4 * v + 9 ≤ r ∧ c ≤ 8) := by
  simp only [openSet, mem_withoutCorners, Finset.mem_erase, Finset.mem_range, Finset.mem_Ico]
  omega

theorem card_openSet (v : Nat) : (openSet v).card = (16 * v + 128) * v + 64 := by
  have hcard := card_withoutCorners (U := (Finset.range (17 + 4 * v)).erase 6) (A := (Finset.range 9).erase 6)
    (B := Finset.Ico (4 * v + 9) (4 * v + 17))
    (Finset.erase_subset_erase 6 (Finset.range_subset_range.mpr (by omega)))
    (fun r => by simp only [Finset.mem_erase, Finset.mem_range, Finset.mem_Ico]; omega)
    (Finset.disjoint_left.mpr fun r => by simp only [Finset.mem_erase, Finset.mem_range, Finset.mem_Ico]; omega)
  have h6 : 6 ∈ Finset.range (17 + 4 * v) := Finset.mem_range.mpr (by omega)
  rw [Finset.card_erase_of_mem h6, Finset.card_erase_of_mem (by simp), Finset.card_range, Finset.card_range,
    Nat.card_Ico] at hcard
  have hn : 17 + 4 * v - 1 = 16 + 4 * v := by omega
  have hb : 4 * v + 17 - (4 * v + 9) = 8 := by omega
  rw [hn, hb] at hcard
  rw [openSet]
  linarith

/-- The rows of the alignment patterns, without row 6 (43_matrix.md R216). By symmetry, the columns too. -/
def alignRows (v : Nat) : Finset Nat :=
  {r ∈ Finset.range (17 + 4 * v) | r ≠ 6 ∧ ∃ a ∈ alignCoords v, r ≤ a + 2 ∧ a ≤ r + 2}

/-- The modules of the alignment patterns outside rows and columns 6: the rows and columns meet in patterns except on
the three finders (43_matrix.md R216). -/
def alignSet (v : Nat) : Finset (Nat × Nat) :=
  withoutCorners (alignRows v) ((Finset.Icc 4 8).erase 6) (Finset.Icc (4 * v + 8) (4 * v + 12))

theorem mem_alignRows {v r : Nat} (h1 : 1 ≤ v) (h40 : v ≤ 40) :
    r ∈ alignRows v ↔ r ≠ 6 ∧ ∃ a ∈ alignCoords v, r ≤ a + 2 ∧ a ≤ r + 2 := by
  simp only [alignRows, Finset.mem_filter, Finset.mem_range, and_iff_right_iff_imp]
  rintro ⟨-, a, ha, hle, -⟩
  obtain ⟨-, -, hbound, -⟩ := alignCoords_table v (by omega) h1 a ha
  omega

theorem mem_alignSet {v r c : Nat} (h1 : 1 ≤ v) (h40 : v ≤ 40) :
    (r, c) ∈ alignSet v ↔ r ≠ 6 ∧ c ≠ 6 ∧ InAlignment v r c := by
  simp only [alignSet, mem_withoutCorners, mem_alignRows h1 h40, Finset.mem_erase, Finset.mem_Icc, InAlignment, Covers]
  constructor
  · rintro ⟨⟨⟨hr, a, ha, hra⟩, hc, b, hb, hcb⟩, hcorners⟩
    exact ⟨hr, hc, (a, b), (mem_alignCentres h1 h40 a b).mpr ⟨ha, hb, by omega⟩, by omega⟩
  · rintro ⟨hr, hc, ⟨a, b⟩, hk, hcovers⟩
    have hbounds := alignCentre_bounds h1 h40 hk
    obtain ⟨ha, hb, -⟩ := (mem_alignCentres h1 h40 a b).mp hk
    exact ⟨⟨⟨hr, a, ha, by omega⟩, hc, b, hb, by omega⟩, by omega⟩

/-- Five rows for each of the V div 7 + 2 coordinates of the table, without row 6 (43_matrix.md R215, R216). -/
theorem card_alignRows : ∀ v < 41, 2 ≤ v → (alignRows v).card + 1 = 5 * (v / 7 + 2) := by decide +kernel

theorem alignCoords_ends : ∀ v < 41, 2 ≤ v → 6 ∈ alignCoords v ∧ 4 * v + 10 ∈ alignCoords v := by decide +kernel

theorem card_alignSet {v : Nat} (h2 : 2 ≤ v) (h40 : v ≤ 40) :
    (alignSet v).card = (25 * (v / 7 + 2) - 10) * (v / 7 + 2) - 55 := by
  obtain ⟨hfirst, hlast⟩ := alignCoords_ends v (by omega) h2
  have hcard := card_withoutCorners (U := alignRows v) (A := (Finset.Icc 4 8).erase 6)
    (B := Finset.Icc (4 * v + 8) (4 * v + 12))
    (fun r hr => (mem_alignRows (by omega) h40).mpr (by
      simp only [Finset.mem_erase, Finset.mem_Icc] at hr
      exact ⟨by omega, 6, hfirst, by omega⟩))
    (fun r hr => (mem_alignRows (by omega) h40).mpr (by
      simp only [Finset.mem_Icc] at hr
      exact ⟨by omega, 4 * v + 10, hlast, by omega⟩))
    (Finset.disjoint_left.mpr fun r => by simp only [Finset.mem_erase, Finset.mem_Icc]; omega)
  have hrows := card_alignRows v (by omega) h2
  generalize v / 7 = q at *
  have hrows : (alignRows v).card = 5 * q + 9 := by omega
  rw [Finset.card_erase_of_mem (by simp), Nat.card_Icc, Nat.card_Icc, hrows] at hcard
  have hb : 4 * v + 12 + 1 - (4 * v + 8) = 5 := by omega
  have h10 : 25 * (q + 2) - 10 = 25 * q + 40 := by omega
  rw [hb] at hcard
  rw [h10, alignSet]
  refine (Nat.sub_eq_of_eq_add ?_).symm
  linarith

/-- The version-information modules (43_matrix.md R220). -/
def versionSet (v : Nat) : Finset (Nat × Nat) :=
  if 7 ≤ v then
    Finset.range 6 ×ˢ Finset.Ico (4 * v + 6) (4 * v + 9) ∪ Finset.Ico (4 * v + 6) (4 * v + 9) ×ˢ Finset.range 6
  else ∅

theorem mem_versionSet {v r c : Nat} : (r, c) ∈ versionSet v ↔ isVersionModule v r c = true := by
  rw [isVersionModule_iff, versionSet]
  split_ifs with h
  · simp only [Finset.mem_union, Finset.mem_product, Finset.mem_range, Finset.mem_Ico]
    omega
  · simp [h]

theorem card_versionSet (v : Nat) : (versionSet v).card = if v ≥ 7 then 36 else 0 := by
  rw [versionSet]
  split_ifs with h
  · have hdisj : Disjoint (Finset.range 6) (Finset.Ico (4 * v + 6) (4 * v + 9)) :=
      Finset.disjoint_left.mpr fun r => by simp only [Finset.mem_range, Finset.mem_Ico]; omega
    rw [Finset.card_union_of_disjoint (Finset.disjoint_product.mpr (.inl hdisj)), Finset.card_product,
      Finset.card_product, Finset.card_range, Nat.card_Ico]
    omega
  · rfl

/-- No alignment pattern reaches a version block (43_matrix.md R216, R220). -/
theorem not_isVersionModule_of_inAlignment {v r c : Nat} (h1 : 1 ≤ v) (h40 : v ≤ 40) (h : InAlignment v r c) :
    ¬ isVersionModule v r c = true := by
  have hbounds := h.bounds h1 h40
  rw [isVersionModule_iff]
  omega

/-- An open module that is in no pattern and no version block is a data module, and there are no others. -/
theorem mem_dataSet_iff_open {v r c : Nat} :
    (r, c) ∈ dataSet v ↔ (r, c) ∈ openSet v ∧ ¬ InAlignment v r c ∧ ¬ isVersionModule v r c = true := by
  rw [mem_dataSet, mem_openSet, ← Bool.not_eq_true, isFunc_iff, inCornerSquare_iff]
  by_cases halign : InAlignment v r c
  · simp [halign]
  by_cases hversion : isVersionModule v r c = true
  · simp [hversion]
  simp only [halign, hversion, Bool.false_eq_true, or_false, not_false_eq_true, and_true]
  omega

/-- The open modules are the data modules, the alignment patterns and the version blocks. -/
theorem card_openSet_split {v : Nat} (h1 : 1 ≤ v) (h40 : v ≤ 40) :
    (openSet v).card = (dataSet v).card + (alignSet v).card + (versionSet v).card := by
  rw [← Finset.card_union_of_disjoint, ← Finset.card_union_of_disjoint]
  · congr 1
    ext ⟨r, c⟩
    have halign : InAlignment v r c → r ≠ 6 → c ≠ 6 → (r, c) ∈ openSet v := by
      intro h hr hc
      have hbounds := h.bounds h1 h40
      rw [mem_openSet]
      omega
    have hversion : isVersionModule v r c = true → (r, c) ∈ openSet v := by
      rw [isVersionModule_iff, mem_openSet]
      omega
    have hopen : (r, c) ∈ openSet v → r ≠ 6 ∧ c ≠ 6 := fun h => (mem_openSet.mp h).1.2
    rw [Finset.mem_union, Finset.mem_union, mem_dataSet_iff_open, mem_alignSet h1 h40, mem_versionSet]
    tauto
  · rw [Finset.disjoint_left]
    rintro ⟨r, c⟩ h hversion
    rw [mem_versionSet] at hversion
    rcases Finset.mem_union.mp h with h | h
    · exact (mem_dataSet_iff_open.mp h).2.2 hversion
    · exact not_isVersionModule_of_inAlignment h1 h40 ((mem_alignSet h1 h40).mp h).2.2 hversion
  · rw [Finset.disjoint_left]
    rintro ⟨r, c⟩ hdata halign
    exact (mem_dataSet_iff_open.mp hdata).2.1 ((mem_alignSet h1 h40).mp halign).2.2

/-- Settles O46: the open modules without the alignment patterns and the version blocks are the data modules. -/
theorem dataModuleCountClosedForm : Obligations.DataModuleCountClosedForm := by
  intro v h1 h40
  have hsplit := card_openSet_split h1 h40
  rw [card_openSet, card_versionSet, ← dataModules_eq_card] at hsplit
  have halign : (alignSet v).card = if v ≥ 2 then (25 * (v / 7 + 2) - 10) * (v / 7 + 2) - 55 else 0 := by
    split_ifs with h2
    · exact card_alignSet h2 h40
    · obtain rfl : v = 1 := by omega
      rfl
  rw [hsplit, halign]

end Sys2Proof.Machine

/-!
PROOFS. The zig-zag. Its column pairs are told by number, so that a pair and the rows in it give both which modules it
lists and their order (43_matrix.md R223).
-/

namespace Sys2Proof.Machine

/-! ### The column pairs -/

/-- The right column of pair p (43_matrix.md R223): from 2m leftwards, one further left from the timing column on. -/
def rightColumn (m p : Nat) : Nat := if 2 * (m - p) > 6 then 2 * (m - p) else 2 * (m - p) - 1

/-- From an even right column 2m ≥ 6 there are m pairs. -/
theorem pairColumns_even (m fuel : Nat) (hm : 3 ≤ m) (hfuel : m ≤ fuel) :
    pairColumns fuel (2 * m) = (List.range m).map (rightColumn m) := by
  induction m, hm using Nat.le_induction generalizing fuel with
  | base =>
    obtain ⟨f, rfl⟩ := Nat.exists_eq_add_of_le' hfuel
    cases f <;> rfl
  | succ m hm ih =>
    obtain ⟨f, rfl⟩ : ∃ f, fuel = f + 1 := ⟨fuel - 1, by omega⟩
    have hnext : 2 * (m + 1) - 2 = 2 * m := by omega
    have hshift : rightColumn (m + 1) ∘ Nat.succ = rightColumn m := by
      funext p
      simp [rightColumn]
    have hfirst : rightColumn (m + 1) 0 = 2 * (m + 1) := if_pos (by omega)
    rw [pairColumns, if_pos (by omega), if_neg (by omega)]
    dsimp only
    rw [hnext, ih f (by omega), List.range_succ_eq_map, List.map_cons, List.map_map, hshift, hfirst]

/-- The pairs of the zig-zag with their numbers (43_matrix.md R223). -/
theorem zigzag_eq (v : Nat) :
    zigzag v = (List.range (8 + 2 * v)).flatMap fun p => pairModules v (rightColumn (8 + 2 * v) p) p := by
  have hright : sideLength v - 1 = 2 * (8 + 2 * v) := by rw [sideLength]; omega
  have hindex : ((List.range (8 + 2 * v)).map (rightColumn (8 + 2 * v))).zipIdx =
      (List.range (8 + 2 * v)).map fun p => (rightColumn (8 + 2 * v) p, p) := by
    apply List.ext_getElem <;> simp
  rw [zigzag, hright, pairColumns_even _ _ (by omega) (by rw [sideLength]; omega), hindex, List.flatMap_map]

theorem mem_pairModules {v right p : Nat} {m : Nat × Nat} :
    m ∈ pairModules v right p ↔
      m.1 < sideLength v ∧ (m.2 = right ∨ m.2 = right - 1) ∧ isFunc v m.1 m.2 = false := by
  obtain ⟨r, c⟩ := m
  simp only [pairModules, List.mem_flatMap, List.mem_range, List.mem_filter, List.mem_cons, Prod.mk.injEq,
    List.not_mem_nil, or_false, Bool.not_eq_true']
  constructor
  · rintro ⟨k, hk, h, hfunc⟩
    exact ⟨by split at h <;> omega, by omega, hfunc⟩
  · rintro ⟨hr, hc, hfunc⟩
    refine ⟨if p % 2 = 0 then sideLength v - 1 - r else r, by split <;> omega, ?_, hfunc⟩
    split <;> omega

/-- Which columns pair p has. -/
theorem columnPair_eq_iff {v p c : Nat} (hp : p < 8 + 2 * v) :
    c = rightColumn (8 + 2 * v) p ∨ c = rightColumn (8 + 2 * v) p - 1 ↔
      c < 17 + 4 * v ∧ c ≠ 6 ∧ columnPair v c = p := by
  unfold rightColumn columnPair
  split <;> split <;> omega

theorem columnPair_of_mem {v p : Nat} (hp : p < 8 + 2 * v) {m : Nat × Nat}
    (hm : m ∈ pairModules v (rightColumn (8 + 2 * v) p) p) : columnPair v m.2 = p := by
  obtain ⟨-, hc, -⟩ := mem_pairModules.mp hm
  exact ((columnPair_eq_iff hp).mp hc).2.2

theorem mem_zigzag (v r c : Nat) :
    (r, c) ∈ zigzag v ↔ r < 17 + 4 * v ∧ c < 17 + 4 * v ∧ isFunc v r c = false := by
  simp only [zigzag_eq, List.mem_flatMap, List.mem_range, mem_pairModules]
  constructor
  · rintro ⟨p, hp, hr, hc, hfunc⟩
    obtain ⟨hc, -⟩ := (columnPair_eq_iff hp).mp hc
    exact ⟨hr, hc, hfunc⟩
  · rintro ⟨hr, hc, hfunc⟩
    have hcol : c ≠ 6 := by
      rintro rfl
      simp [isFunc] at hfunc
    have hp : columnPair v c < 8 + 2 * v := by
      unfold columnPair
      split <;> omega
    exact ⟨columnPair v c, hp, hr, (columnPair_eq_iff hp).mpr ⟨hc, hcol, rfl⟩, hfunc⟩

/-! ### The order of the visit -/

/-- Inside a pair of columns the rows go one way, and in each row the right column is first (43_matrix.md R223). -/
theorem pairModules_pairwise {v p : Nat} (hp : p < 8 + 2 * v) :
    (pairModules v (rightColumn (8 + 2 * v) p) p).Pairwise (VisitedBefore v) := by
  have hcolumns {c : Nat} (hc : c = rightColumn (8 + 2 * v) p ∨ c = rightColumn (8 + 2 * v) p - 1) :
      columnPair v c = p := ((columnPair_eq_iff hp).mp hc).2.2
  have hright : 1 ≤ rightColumn (8 + 2 * v) p := by
    unfold rightColumn
    split <;> omega
  rw [pairModules, List.pairwise_flatMap]
  constructor
  · intro k _
    refine List.Pairwise.filter _ (List.pairwise_pair.mpr (.inr ⟨?_, .inr (.inr ⟨rfl, ?_⟩)⟩))
    · rw [hcolumns (.inl rfl), hcolumns (.inr rfl)]
    · dsimp only
      omega
  · refine List.pairwise_lt_range.imp_of_mem fun {k k'} _ hk' hlt m hm m' hm' => .inr ?_
    obtain ⟨r, c⟩ := m
    obtain ⟨r', c'⟩ := m'
    simp only [List.mem_filter, List.mem_cons, Prod.mk.injEq, List.not_mem_nil, or_false, ← and_or_left, List.mem_range]
      at hk' hm hm' ⊢
    obtain ⟨⟨hr, hc⟩, -⟩ := hm
    obtain ⟨⟨hr', hc'⟩, -⟩ := hm'
    rw [hcolumns hc, hcolumns hc']
    refine ⟨rfl, ?_⟩
    split at hr <;> split at hr' <;> omega

/-- Each pair of columns comes before the next (43_matrix.md R223). -/
theorem zigzag_pairwise (v : Nat) : (zigzag v).Pairwise (VisitedBefore v) := by
  rw [zigzag_eq, List.pairwise_flatMap]
  constructor
  · exact fun p hp => pairModules_pairwise (List.mem_range.mp hp)
  · refine List.pairwise_lt_range.imp_of_mem fun {p p'} hp hp' hlt m hm m' hm' => .inl ?_
    rw [columnPair_of_mem (List.mem_range.mp hp) hm, columnPair_of_mem (List.mem_range.mp hp') hm']
    exact hlt

theorem VisitedBefore.ne {v : Nat} {m m' : Nat × Nat} (h : VisitedBefore v m m') : m ≠ m' := by
  rintro rfl
  unfold VisitedBefore at h
  omega

theorem zigzag_nodup (v : Nat) : (zigzag v).Nodup := (zigzag_pairwise v).imp VisitedBefore.ne

/-- Settles O47: in the order of R223 no module comes before itself, so that there are no repeats and the length is the
number of the modules listed. -/
theorem zigzagVisitsEachDataModuleOnce : Obligations.ZigzagVisitsEachDataModuleOnce := by
  intro v _ _
  refine ⟨zigzag_nodup v, ?_, zigzag_pairwise v, mem_zigzag v⟩
  have hset : (zigzag v).toFinset = dataSet v := by
    ext ⟨r, c⟩
    rw [List.mem_toFinset, mem_zigzag, mem_dataSet]
  rw [dataModules_eq_card, ← hset, List.toFinset_card_of_nodup (zigzag_nodup v)]

end Sys2Proof.Machine

/-!
PROOFS. The matrix commands that build and fill the matrix, and the function modules that all commands but MXINIT keep
(43_matrix.md R211, R224, R225).
-/

namespace Sys2Proof.Machine

/-! ### MXINIT -/

/-- Settles O43: on a legal version MXINIT writes the square, the latch, DMCOUNT and RESULT. -/
theorem mxinitBuildsTheMatrix : Obligations.MxinitBuildsTheMatrix := by
  intro s h1 h40
  refine ⟨_, exec_eq _ _, ?_⟩
  rw [runInstr, runMxinit, if_neg (by simp only [Store.versionArg]; omega)]
  refine ⟨?_, ?_, ?_⟩
  · simp [State.succeed, Store.apply, Csrs.apply, Csrs.setDone, Writes.bytes, toWord]
  · exact square_isSquare _ _
  · exact fun r hr c hc => square_module _ _ r c hr hc

/-! ### MXPLACE -/

/-- Bit i of the stream is bit 7 − i mod 8 of codeword i div 8; past the stream there is none (43_matrix.md R224). -/
theorem bitStream_getD (st : Store) (src t i : Nat) :
    (bitStream (st.cwList src t)).getD i false =
      if i < 8 * t then (st.cw (src + i / 8)).getLsbD (7 - i % 8) else false := by
  have hlength (j : Nat) : (codewordBits (st.cw (src + j))).length = 8 := by simp [codewordBits]
  have hbits : bitStream (st.cwList src t) = (List.range t).flatMap fun j => codewordBits (st.cw (src + j)) := by
    rw [bitStream, Store.cwList, List.flatMap_map]
  rw [hbits, List.getD_eq_getElem?_getD]
  split_ifs with hi
  · have hbit := getElem?_flatMap_range (fun j => codewordBits (st.cw (src + j))) (m := t) (j := i / 8) (b := i % 8)
      (by omega) (by rw [hlength]; omega)
    rw [length_flatMap_range (c := 8) fun j _ => hlength j, Nat.div_add_mod' i 8] at hbit
    rw [hbit]
    simp [codewordBits, Nat.mod_lt]
  · rw [List.getElem?_eq_none, Option.getD_none]
    rw [length_flatMap_range fun j _ => hlength j]
    omega

/-- MXPLACE writes the modules of the zig-zag, each once (43_matrix.md R225). -/
theorem placements_modules (v : Nat) (codewords : List Byte) :
    (placements v codewords).map (fun m => (m.1, m.2.1)) = zigzag v := by
  apply List.ext_getElem <;> simp [placements]

theorem mem_placements {v i r c : Nat} (codewords : List Byte) (h : (zigzag v)[i]? = some (r, c)) :
    (r, c, (bitStream codewords).getD i false) ∈ placements v codewords := by
  obtain ⟨hi, h⟩ := List.getElem?_eq_some_iff.mp h
  exact List.mem_mapIdx.mpr ⟨i, hi, by rw [h]⟩

/-- MXPLACE leaves the modules outside the zig-zag alone (43_matrix.md R225). -/
theorem setModules_placements_other (p : Plane) {v r c : Nat} (codewords : List Byte) (h : (r, c) ∉ zigzag v) :
    (p.setModules (placements v codewords)).module r c = p.module r c := by
  refine Plane.module_setModules_of_not_mem _ _ _ _ fun m hm heq => h ?_
  rw [← placements_modules v codewords, ← heq]
  exact List.mem_map_of_mem hm

/-- Settles O48: T = DM div 8 passes the checks, and the writes name each module of the zig-zag once. -/
theorem mxplacePlacesTheBits : Obligations.MxplacePlacesTheBits := by
  intro s hvalid _ _ hrange hlen hsquare
  have hrun : runInstr .mxplace s.snap =
      .ok
        { modules := placements s.snap.mxver.toNat (s.snap.cwList s.snap.csr.src.toNat s.snap.csr.len.toNat)
          result := some (toWord (dataModules s.snap.mxver.toNat - 8 * s.snap.csr.len.toNat)) } := by
    simp only [runInstr, runMxplace, Store.srcArg, Store.lenArg, Store.matrixVersion, Config.cwSize]
    rw [if_neg (by simp [hvalid]), if_neg (by omega), if_neg (by omega)]
  have hrest : dataModules s.snap.mxver.toNat - 8 * s.snap.csr.len.toNat = dataModules s.snap.mxver.toNat % 8 := by
    omega
  rw [hrest] at hrun
  refine ⟨_, (exec_ok hrun).trans (congrArg _ (State.succeed_plane_only s _ rfl rfl rfl)), rfl, rfl,
    hsquare.setModules _, fun i r c hi => ?_, fun r c hmem => setModules_placements_other _ _ hmem⟩
  obtain ⟨hr, hc, -⟩ := (mem_zigzag _ r c).mp (List.mem_of_getElem? hi)
  rw [← bitStream_getD]
  refine Plane.module_setModules_of_mem _ _ hsquare _ r c _ hr hc ?_ (mem_placements _ hi)
  rw [placements_modules]
  exact zigzag_nodup _

/-! ### Function modules -/

/-- A masked square has the function modules of the square before (44_mask.md R252). -/
theorem masked_module_of_isFunc {v r c : Nat} (m : Plane) (k : Nat) (hr : r < sideLength v) (hc : c < sideLength v)
    (hfunc : isFunc v r c = true) : (masked v m k).module r c = m.module r c := by
  simp [masked, square_module _ _ _ _ hr hc, maskedModule, hfunc]

/-- What a successful command but MXINIT makes of a plane that is still the one of its snapshot has the same function
modules: MXPLACE writes data modules only, and MXMASK and MXSELECT write a masked square (43_matrix.md R225, 44_mask.md
R253, R261). -/
theorem writes_keep_function_modules {i : Instr} {snap : Store} {w : Writes} (hrun : runInstr i snap = .ok w)
    (hi : i ≠ .mxinit) {r c : Nat} (hr : r < sideLength snap.mxver.toNat) (hc : c < sideLength snap.mxver.toNat)
    (hfunc : isFunc snap.mxver.toNat r c = true) :
    ((w.whole.getD snap.plane).setModules w.modules).module r c = snap.plane.module r c := by
  cases i with
  | mxinit => exact absurd rfl hi
  | nop | gfmul | gfexp => cases hrun; rfl
  | gflog | gfinv | rsgen | rsenc | rssyn | eccblk | mxscore =>
    simp only [runInstr, runGflog, runGfinv, runRsgen, runRsenc, runRssyn, runEccblk, runMxscore] at hrun
    split_ifs at hrun
    cases hrun
    rfl
  | mxplace =>
    simp only [runInstr, runMxplace] at hrun
    split_ifs at hrun
    cases hrun
    exact setModules_placements_other _ _ fun hmem => by simp [mem_zigzag_data hmem] at hfunc
  | mxmask k =>
    simp only [runInstr, runMxmask] at hrun
    split_ifs at hrun
    cases hrun
    exact masked_module_of_isFunc _ _ hr hc hfunc
  | mxselect =>
    simp only [runInstr, runMxselect] at hrun
    split_ifs at hrun
    cases hrun
    exact masked_module_of_isFunc _ _ hr hc hfunc

/-- While BUSY the store still has the snapshot's plane and version, and while IDLE the snapshot is the store. -/
theorem Inv.snap_matrix {s : State} (h : Inv s) : s.snap.plane = s.store.plane ∧ s.snap.mxver = s.store.mxver := by
  cases hengine : s.engine with
  | idle => rw [State.snap_idle s hengine]; exact ⟨rfl, rfl⟩
  | busy w snap =>
    obtain ⟨-, -, -, -, hdiff⟩ := h.inFlight w snap hengine
    rw [State.snap_busy s w snap hengine, hdiff]
    exact ⟨rfl, rfl⟩

/-- Settles O55: a failed command writes no module, and a successful one keeps the function modules of the plane. -/
theorem onlyMxinitChangesFunctionModules : Obligations.OnlyMxinitChangesFunctionModules := by
  intro i s t hinv hi hexec _ r hr c hc hfunc
  obtain ⟨hplane, hver⟩ := hinv.snap_matrix
  rw [← hver] at hr hc hfunc
  rw [exec_eq, Host.Outcome.next.injEq] at hexec
  rw [← hexec, ← hplane]
  cases hrun : runInstr i s.snap with
  | err e => rw [hplane, State.finish_err, State.failCommand_store]
  | ok w =>
    simp only [State.finish_ok, State.succeed_store, Store.apply_plane]
    rw [← hplane]
    exact writes_keep_function_modules hrun hi hr hc hfunc

end Sys2Proof.Machine

/-!
PROOFS. Masks and the three mask commands: applying, scoring and selecting a mask (44_mask.md R250–R253, R260–R262).
-/

namespace Sys2Proof.Machine

/-! ### Masks -/

theorem maskBit_eq_maskTrue {k : Nat} (hk : k ≤ 7) (i j : Nat) : maskBit k i j = maskTrue k i j := by
  interval_cases k <;> simp [maskBit, maskTrue]

/-- With k = 8 nothing is inverted (44_mask.md R252). -/
theorem maskBit_eight (i j : Nat) : maskBit 8 i j = false := rfl

theorem masked_module {v r c : Nat} (m : Plane) (k : Nat) (hr : r < sideLength v) (hc : c < sideLength v) :
    (masked v m k).module r c = (m.module r c ^^ (!isFunc v r c && maskBit k r c)) :=
  square_module _ _ r c hr hc

/-- Masking is an XOR, so a mask applied twice restores the square (44_mask.md R253). -/
theorem masked_masked {v : Nat} {m : Plane} (hm : m.isSquare (sideLength v)) (k : Nat) :
    masked v (masked v m k) k = m := by
  calc masked v (masked v m k) k
      = square (sideLength v) m.module := square_congr _ _ _ fun r hr c hc => by
        rw [maskedModule, masked_module m k hr hc, Bool.xor_assoc, Bool.xor_self, Bool.xor_false]
    _ = m := hm.eq_square.symm

/-! ### MXMASK -/

theorem runMxmask_ok {k : Byte} {snap : Store} (hk : k.toNat ≤ 7) (hvalid : snap.mxvalid = true) :
    runInstr (.mxmask k) snap =
      .ok { whole := some (masked snap.mxver.toNat snap.plane k.toNat), result := some (toWord k.toNat) } := by
  rw [runInstr, runMxmask, if_neg (by simpa using hk), if_neg (by simp [hvalid])]

/-- Settles O49: MXMASK writes the masked square, and the model's mask formulas are those of R251. -/
theorem mxmaskInvertsTheMaskedDataModules : Obligations.MxmaskInvertsTheMaskedDataModules := by
  intro s k hk hvalid
  refine ⟨_, (exec_ok (runMxmask_ok hk hvalid)).trans (congrArg _ (State.succeed_plane_only s _ rfl rfl rfl)), rfl, rfl,
    square_isSquare _ _, fun r hr c hc => ?_⟩
  rw [← maskBit_eq_maskTrue hk]
  exact masked_module _ _ hr hc

/-- A command from IDLE after a completion reads the store the completion left (log entry 6). -/
@[simp] theorem State.succeed_snap (s : State) (w : Writes) : (s.succeed w).snap = (s.succeed w).store :=
  State.snap_idle _ (State.succeed_engine s w)

/-- Settles O50: the first MXMASK leaves the masked square with the same latch, and the second masks that. -/
theorem mxmaskTwiceRestoresTheMatrix : Obligations.MxmaskTwiceRestoresTheMatrix := by
  intro s k hidle hk hvalid hsquare
  have hsnap : s.snap = s.store := State.snap_idle s hidle
  have hfirst := exec_ok (s := s) (runMxmask_ok hk (by rwa [hsnap]))
  refine ⟨_, _, hfirst, exec_ok (runMxmask_ok hk ?_), ?_⟩
  · simp [hvalid]
  · simpa [hsnap] using masked_masked hsquare k.toNat

/-! ### MXSCORE -/

theorem runMxscore_ok {k : Byte} {snap : Store} (hk : k.toNat ≤ 8) (hvalid : snap.mxvalid = true) :
    runInstr (.mxscore k) snap =
      .ok
        { penalty := some (penaltyOf (sideLength snap.mxver.toNat) (masked snap.mxver.toNat snap.plane k.toNat))
          result := some (toWord (maskTotal snap k.toNat)) } := by
  rw [runInstr, runMxscore, if_neg (by simpa using hk), if_neg (by simp [hvalid])]
  rfl

/-- The masked square for k = 0 … 8, with the case of no mask written out (44_mask.md R252). -/
theorem masked_eq_square_of_le {k : Nat} (hk : k ≤ 8) (v : Nat) (m : Plane) :
    masked v m k =
      square (17 + 4 * v) fun r c => m.module r c ^^ (decide (k ≤ 7) && !isFunc v r c && maskBit k r c) := by
  refine square_congr _ _ _ fun r _ c _ => ?_
  rcases Nat.le_succ_iff.mp hk with h | rfl
  · simp [maskedModule, h]
  · simp [maskedModule, maskBit_eight]

/-- Settles O51: MXSCORE writes the penalty registers and RESULT from the masked square and nothing else. -/
theorem mxscoreWritesTheScores : Obligations.MxscoreWritesTheScores := by
  intro s k hk hvalid
  exact ⟨_, masked s.snap.mxver.toNat s.snap.plane k.toNat, _,
    (exec_ok (runMxscore_ok hk hvalid)).trans (congrArg _ (State.succeed_csr_only s _ rfl rfl rfl rfl rfl)), rfl, rfl,
    masked_eq_square_of_le hk _ _, rfl⟩

/-! ### MXSELECT -/

/-- The selection is the library's first minimum of the candidates (44_mask.md R262). -/
theorem argmin_eq_bestOf (first : Candidate) (rest : List Candidate) :
    (first :: rest).argmin (fun k => k.penalty.total) = some (bestOf first rest) := by
  refine List.foldl_hom (l := rest) (init := first) some fun best k => ?_
  rw [betterOf, apply_ite some]
  rfl

/-- The candidates in the order of the evaluation (44_mask.md R261). -/
def candidates (v : Nat) (m : Plane) : List Candidate := (List.range 8).map (candidate v m)

theorem mem_candidates {v : Nat} {m : Plane} {c : Candidate} :
    c ∈ candidates v m ↔ ∃ k ≤ 7, candidate v m k = c := by
  simp only [candidates, List.mem_map, List.mem_range, Nat.lt_succ_iff]

/-- The candidates stand in the list by their index. -/
theorem idxOf_candidates {v k : Nat} (m : Plane) (hk : k ≤ 7) : (candidates v m).idxOf (candidate v m k) = k := by
  have hnodup : (candidates v m).Nodup := List.nodup_range.map fun _ _ h => congrArg Candidate.index h
  have hlt : k < (candidates v m).length := by simp [candidates]; omega
  have hget : (candidates v m)[k] = candidate v m k := by simp [candidates]
  rw [← hget, hnodup.idxOf_getElem]

/-- The candidate MXSELECT applies (44_mask.md R261). -/
def selected (v : Nat) (m : Plane) : Candidate := bestOf (candidate v m 0) ([1, 2, 3, 4, 5, 6, 7].map (candidate v m))

/-- The selected candidate is that of the lowest mask with the least total (44_mask.md R262). -/
theorem selected_spec (v : Nat) (m : Plane) :
    ∃ best ≤ 7, selected v m = candidate v m best ∧
      (∀ k ≤ 7, (candidate v m best).penalty.total ≤ (candidate v m k).penalty.total) ∧
      ∀ k < best, (candidate v m best).penalty.total < (candidate v m k).penalty.total := by
  have hargmin : selected v m ∈ (candidates v m).argmin fun k => k.penalty.total := argmin_eq_bestOf _ _
  obtain ⟨hmem, hleast, hfirst⟩ := List.mem_argmin_iff.mp hargmin
  obtain ⟨best, hbest, heq⟩ := mem_candidates.mp hmem
  rw [← heq] at hleast hfirst
  refine ⟨best, hbest, heq.symm, fun k hk => hleast _ (mem_candidates.mpr ⟨k, hk, rfl⟩), fun k hk => ?_⟩
  by_contra hge
  have hidx := hfirst _ (mem_candidates.mpr ⟨k, by omega, rfl⟩) (Nat.le_of_not_lt hge)
  rw [idxOf_candidates m hbest, idxOf_candidates m (by omega)] at hidx
  omega

theorem runMxselect_ok {snap : Store} (hvalid : snap.mxvalid = true) :
    runInstr .mxselect snap =
      .ok
        { whole := some (masked snap.mxver.toNat snap.plane (selected snap.mxver.toNat snap.plane).index)
          scores := some (Vector.ofFn fun k => toWord (maskTotal snap k.val))
          penalty := some (selected snap.mxver.toNat snap.plane).penalty
          result := some (toWord (selected snap.mxver.toNat snap.plane).index) } := by
  rw [runInstr, runMxselect, if_neg (by simp [hvalid])]
  rfl

/-- Settles O52: MXSELECT writes what the selected candidate gives. -/
theorem mxselectAppliesTheLowestMinimum : Obligations.MxselectAppliesTheLowestMinimum := by
  intro s hvalid
  obtain ⟨best, hbest, hselected, hleast, hlowest⟩ := selected_spec s.snap.mxver.toNat s.snap.plane
  have hrun := runMxselect_ok hvalid
  rw [hselected] at hrun
  refine ⟨_, best, _, _, (exec_ok hrun).trans (congrArg _ (State.succeed_plane_only s _ rfl rfl rfl)), rfl, rfl, rfl,
    hbest, hleast, hlowest, rfl, fun k => ?_, rfl⟩
  exact Vector.getElem_ofFn _

end Sys2Proof.Machine

/-!
PROOFS. The four penalty rules in numbers, and their bounds (44_mask.md R254–R259).
-/

namespace Sys2Proof.Machine

/-! ### Counts and lines -/

theorem countP_range_eq_card (n : Nat) (p : Nat → Bool) :
    (List.range n).countP p = ((Finset.range n).filter fun i => p i = true).card := by
  rw [List.countP_eq_length_filter]
  exact congrArg List.length (List.filter_congr fun i _ => by simp)

/-- Rows of counts add up to the number of positions counted. -/
theorem sum_countP_range_eq_card (n : Nat) (p : Nat → Nat → Bool) :
    ((List.range n).map fun r => (List.range n).countP (p r)).sum =
      ((positions n).filter fun m => p m.1 m.2 = true).card := by
  rw [positions, Finset.card_filter, Finset.sum_product]
  simp only [countP_range_eq_card, Finset.card_filter]
  rfl

theorem card_filter_positions_le (n : Nat) (p : Nat × Nat → Prop) [DecidablePred p] :
    ((positions n).filter p).card ≤ n * n := by
  refine (Finset.card_filter_le _ _).trans_eq ?_
  rw [positions, Finset.card_product, Finset.card_range]

/-- The module of a line at each position. -/
def lineModule (s : List Bool) (i : Nat) : Bool := s.getD i false

theorem lineModule_eq_getElem {s : List Bool} {i : Nat} (hi : i < s.length) : lineModule s i = s[i] :=
  List.getD_eq_getElem _ _ hi

theorem lineModule_column (x : Plane) (c : Nat) :
    lineModule (x.map fun row => row.getD c false) = fun i => x.module i c := by
  funext i
  by_cases hi : i < x.length <;> simp [lineModule, Plane.module, List.getD_eq_getElem?_getD, hi]

/-! ### The runs of a line -/

/-- The colours of the runs are the line without its repetitions. -/
theorem runsFrom_length (b : Bool) (len : Nat) (rest : List Bool) :
    (runsFrom b len rest).length = (rest.destutter' (· ≠ ·) b).length := by
  induction rest generalizing b len with
  | nil => rfl
  | cons c rest ih =>
    rw [runsFrom]
    split_ifs with h
    · rw [List.destutter'_cons_neg _ (not_not.mpr h.symm), ih]
    · rw [List.destutter'_cons_pos _ (Ne.symm h), List.length_cons, List.length_cons, ih]

theorem one_le_of_mem_runsFrom {b : Bool} {len : Nat} {rest : List Bool} (hlen : 1 ≤ len) :
    ∀ l ∈ runsFrom b len rest, 1 ≤ l := by
  induction rest generalizing b len with
  | nil => simpa [runsFrom] using hlen
  | cons c rest ih =>
    rw [runsFrom]
    split_ifs
    · exact ih (Nat.le_add_left 1 len)
    · exact List.forall_mem_cons.mpr ⟨hlen, ih le_rfl⟩

/-- The runs laid out in their colours are the line (44_mask.md R255). -/
theorem flatten_runsFrom (b : Bool) (len : Nat) (rest : List Bool) :
    (List.zipWith List.replicate (runsFrom b len rest) (rest.destutter' (· ≠ ·) b)).flatten =
      List.replicate len b ++ rest := by
  induction rest generalizing b len with
  | nil => simp [runsFrom]
  | cons c rest ih =>
    rw [runsFrom]
    split_ifs with h
    · rw [List.destutter'_cons_neg _ (not_not.mpr h.symm), h, ih, List.replicate_succ', List.append_assoc]
      rfl
    · rw [List.destutter'_cons_pos _ (Ne.symm h), List.zipWith_cons_cons, List.flatten_cons, ih]
      rfl

/-- Settles O53: the colours are those of the line without its repetitions, in which neighbours differ. -/
theorem runLengthsAreTheMaximalRuns : Obligations.RunLengthsAreTheMaximalRuns := by
  intro s
  cases s with
  | nil => exact ⟨[], by simp [runLengths]⟩
  | cons b rest =>
    refine ⟨rest.destutter' (· ≠ ·) b, (runsFrom_length b 1 rest).symm, one_le_of_mem_runsFrom le_rfl,
      flatten_runsFrom b 1 rest, fun i hi heq => ?_⟩
    rw [List.getElem?_eq_getElem hi, List.getElem?_eq_getElem (by omega), Option.some.injEq] at heq
    exact (List.isChain_destutter' _ rest b).getElem i hi heq

/-! ### What rule 1 adds for a line -/

theorem maximalRun_iff {n i l : Nat} {s : Nat → Bool} :
    maximalRun n s i l = true ↔
      1 ≤ l ∧ i + l ≤ n ∧ (∀ j < l, s (i + j) = s i) ∧ (i = 0 ∨ s (i - 1) ≠ s i) ∧ (i + l = n ∨ s (i + l) ≠ s i) := by
  rw [maximalRun, decide_eq_true_iff]

/-- A shorter run that starts where a longer one does goes on, so it is not maximal. -/
theorem le_of_maximalRun {n i l l' : Nat} {s : Nat → Bool} (h : maximalRun n s i l = true)
    (h' : maximalRun n s i l' = true) : l' ≤ l := by
  obtain ⟨-, -, -, -, hend⟩ := maximalRun_iff.mp h
  obtain ⟨-, hle, hequal, -, -⟩ := maximalRun_iff.mp h'
  by_contra hlt
  exact hend.elim (by omega) fun hne => hne (hequal l (by omega))

theorem maximalRun_length_unique {n i l l' : Nat} {s : Nat → Bool} (h : maximalRun n s i l = true) :
    maximalRun n s i l' = true ↔ l' = l :=
  ⟨fun h' => le_antisymm (le_of_maximalRun h h') (le_of_maximalRun h' h), fun heq => heq ▸ h⟩

/-- What the runs that start at position i add (44_mask.md R255). -/
def runScoreAt (n : Nat) (s : Nat → Bool) (i : Nat) : Nat :=
  ∑ l ∈ Finset.Icc 5 n, if maximalRun n s i l then l - 2 else 0

theorem runScore_eq_sum (n : Nat) (s : Nat → Bool) : runScore n s = ∑ i ∈ Finset.Ico 0 n, runScoreAt n s i := by
  rw [← Finset.range_eq_Ico]
  rfl

theorem runScoreAt_start {n i l : Nat} {s : Nat → Bool} (h : maximalRun n s i l = true) :
    runScoreAt n s i = runPenalty l := by
  obtain ⟨-, hle, -⟩ := maximalRun_iff.mp h
  simp only [runScoreAt, maximalRun_length_unique h, Finset.sum_ite_eq', Finset.mem_Icc, runPenalty]
  exact if_congr (by omega) rfl rfl

/-- No maximal run starts inside a run. -/
theorem runScoreAt_inside {n i : Nat} {s : Nat → Bool} (hi : i ≠ 0) (hsame : s (i - 1) = s i) :
    runScoreAt n s i = 0 := by
  refine Finset.sum_eq_zero fun l _ => if_neg fun h => ?_
  obtain ⟨-, -, -, hstart, -⟩ := maximalRun_iff.mp h
  exact hstart.elim hi (absurd hsame)

/-- The positions of a maximal run add what the run adds. -/
theorem sum_runScoreAt_of_maximalRun {n a l : Nat} {s : Nat → Bool} (h : maximalRun n s a l = true) :
    ∑ i ∈ Finset.Ico a (a + l), runScoreAt n s i = runPenalty l := by
  obtain ⟨hpos, -, hequal, -⟩ := maximalRun_iff.mp h
  rw [Finset.sum_eq_single_of_mem a (Finset.mem_Ico.mpr (by omega)), runScoreAt_start h]
  intro i hi hne
  rw [Finset.mem_Ico] at hi
  obtain ⟨j, rfl⟩ := Nat.exists_eq_add_of_le hi.1
  refine runScoreAt_inside (by omega) ?_
  rw [Nat.add_sub_assoc (by omega), hequal _ (by omega), hequal _ (by omega)]

/-- A run of len modules of colour b begins at position a; it may go on after these. -/
structure RunBegins (s : Nat → Bool) (a len : Nat) (b : Bool) : Prop where
  pos : 1 ≤ len
  colour : ∀ j < len, s (a + j) = b
  start : a = 0 ∨ s (a - 1) ≠ b

namespace RunBegins

variable {s : Nat → Bool} {a len : Nat} {b : Bool}

theorem lineStart (b : Bool) (rest : List Bool) : RunBegins (lineModule (b :: rest)) 0 1 b where
  pos := le_rfl
  colour := fun j hj => by rw [Nat.lt_one_iff.mp hj]; rfl
  start := .inl rfl

/-- The next module of the same colour belongs to the run. -/
theorem extend (h : RunBegins s a len b) (hnext : s (a + len) = b) : RunBegins s a (len + 1) b where
  pos := Nat.le_add_left 1 len
  colour := fun j hj => (Nat.lt_succ_iff_lt_or_eq.mp hj).elim (h.colour j) fun heq => heq ▸ hnext
  start := h.start

/-- A next module of the other colour begins a run. -/
theorem next (h : RunBegins s a len b) (hnext : s (a + len) ≠ b) : RunBegins s (a + len) 1 (s (a + len)) where
  pos := le_rfl
  colour := fun j hj => by rw [Nat.lt_one_iff.mp hj, Nat.add_zero]
  start := .inr (by
    have hpos := h.pos
    rw [Nat.add_sub_assoc hpos, h.colour _ (by omega)]
    exact hnext.symm)

/-- A run that ends with the line or before another colour is maximal. -/
theorem maximal {n : Nat} (h : RunBegins s a len b) (hle : a + len ≤ n) (hend : a + len = n ∨ s (a + len) ≠ b) :
    maximalRun n s a len = true := by
  have hfirst : s a = b := h.colour 0 h.pos
  rw [maximalRun_iff, hfirst]
  exact ⟨h.pos, hle, h.colour, h.start, hend⟩

end RunBegins

/-- The runs of the rest of a line, from the one that begins at position a. -/
theorem sum_runScoreAt {n : Nat} {s : Nat → Bool} (rest : List Bool) {a len : Nat} {b : Bool}
    (hrun : RunBegins s a len b) (hn : a + len + rest.length = n)
    (hrest : ∀ j (hj : j < rest.length), s (a + len + j) = rest[j]) :
    ∑ i ∈ Finset.Ico a n, runScoreAt n s i = ((runsFrom b len rest).map runPenalty).sum := by
  induction rest generalizing a len b with
  | nil =>
    have hmax := hrun.maximal (n := n) hn.le (.inl hn)
    rw [← hn] at hmax ⊢
    simpa [runsFrom] using sum_runScoreAt_of_maximalRun hmax
  | cons c rest ih =>
    rw [List.length_cons] at hn
    have hc : s (a + len) = c := hrest 0 (Nat.zero_lt_succ _)
    have hrest' : ∀ j (hj : j < rest.length), s (a + len + 1 + j) = rest[j] := fun j hj => by
      simpa [Nat.add_assoc, Nat.add_comm 1 j] using hrest (j + 1) (Nat.succ_lt_succ hj)
    rw [runsFrom]
    split_ifs with h
    · exact ih (hrun.extend (hc.trans h)) (by omega) hrest'
    · have hne : s (a + len) ≠ b := hc ▸ h
      rw [← Finset.sum_Ico_consecutive _ (Nat.le_add_right a len) (by omega : a + len ≤ n),
        sum_runScoreAt_of_maximalRun (hrun.maximal (by omega) (.inr hne)), List.map_cons, List.sum_cons,
        ih (hc ▸ hrun.next hne) (by omega) hrest']

/-- Rule 1 for a line, from its first run on. -/
theorem sum_runPenalty_eq_runScore (s : List Bool) :
    ((runLengths s).map runPenalty).sum = runScore s.length (lineModule s) := by
  cases s with
  | nil => rfl
  | cons b rest =>
    rw [runScore_eq_sum, runLengths, sum_runScoreAt rest (.lineStart b rest) (by simp [Nat.add_comm])]
    intro j hj
    rw [lineModule_eq_getElem (by rw [List.length_cons]; omega)]
    simp [Nat.add_comm 1 j]

theorem runPenalty_le (l : Nat) : runPenalty l ≤ l - 2 := by
  rw [runPenalty]
  split_ifs <;> omega

theorem sum_runsFrom_le (b : Bool) (len : Nat) (rest : List Bool) :
    ((runsFrom b len rest).map runPenalty).sum ≤ len + rest.length - 2 := by
  induction rest generalizing b len with
  | nil => simpa [runsFrom] using runPenalty_le len
  | cons c rest ih =>
    rw [runsFrom, List.length_cons]
    split_ifs
    · exact (ih b (len + 1)).trans (by omega)
    · have hlen := runPenalty_le len
      have hrest := ih c 1
      rw [List.map_cons, List.sum_cons]
      omega

/-- A line of n modules adds at most n − 2 to rule 1, as one run does (44_mask.md R259). -/
theorem sum_runPenalty_le (s : List Bool) : ((runLengths s).map runPenalty).sum ≤ s.length - 2 := by
  cases s with
  | nil => exact Nat.zero_le _
  | cons b rest => exact (sum_runsFrom_le b 1 rest).trans (by rw [List.length_cons]; omega)

/-! ### What rule 3 adds for a line -/

theorem take_drop_eq_map_lineModule {s : List Bool} {i k : Nat} (h : i + k ≤ s.length) :
    (s.drop i).take k = (List.range k).map fun j => lineModule s (i + j) := by
  apply List.ext_getElem
  · simp only [List.length_take, List.length_drop, List.length_map, List.length_range]
    omega
  · intro j _ hj
    rw [List.length_map, List.length_range] at hj
    simp [lineModule_eq_getElem (show i + j < s.length by omega)]

/-- The two patterns as modules and as numbers (44_mask.md R257). -/
theorem finderLikeAt_eq_finderLike {s : List Bool} {i : Nat} (h : i + 11 ≤ s.length) :
    finderLikeAt s i = finderLike (lineModule s) i := by
  have hinj : Function.Injective (List.map Bool.toNat) := List.map_injective_iff.mpr (by decide)
  have hwindow : (List.range 11).map (fun j => (lineModule s (i + j)).toNat) =
      ((s.drop i).take 11).map Bool.toNat := by
    rw [take_drop_eq_map_lineModule h, List.map_map]
    rfl
  have hA : [1, 0, 1, 1, 1, 0, 1, 0, 0, 0, 0] = finderLikeA.map Bool.toNat := rfl
  have hB : [0, 0, 0, 0, 1, 0, 1, 1, 1, 0, 1] = finderLikeB.map Bool.toNat := rfl
  rw [finderLike, hwindow, hA, hB, finderLikeAt]
  simp only [List.mem_cons, List.not_mem_nil, or_false, hinj.eq_iff, Bool.decide_or]

/-- Rule 3 for a line: the model starts at 0 … n − 11 as the rule does. -/
theorem countP_finderLikeAt_eq_finderScore (s : List Bool) :
    40 * ((List.range (s.length - 10)).countP fun i => finderLikeAt s i) = finderScore s.length (lineModule s) := by
  rw [countP_range_eq_card, finderScore]
  congr 2
  ext i
  simp only [Finset.mem_filter, Finset.mem_range]
  constructor
  · rintro ⟨hi, hlike⟩
    exact ⟨by omega, by omega, finderLikeAt_eq_finderLike (s := s) (i := i) (by omega) ▸ hlike⟩
  · rintro ⟨-, hi, hlike⟩
    exact ⟨by omega, (finderLikeAt_eq_finderLike hi).trans hlike⟩

/-! ### Squares -/

theorem absDiff_eq_natAbs (a b : Nat) : absDiff a b = ((a : Int) - b).natAbs := by
  rw [absDiff]
  split_ifs <;> omega

section
variable {n : Nat} {x : Plane} (hx : x.isSquare n)
include hx

theorem length_of_mem_linesOf : ∀ s ∈ linesOf n x, s.length = n := by
  intro s hs
  rcases List.mem_append.mp hs with hs | hs
  · exact hx.2 s hs
  · obtain ⟨c, -, rfl⟩ := List.mem_map.mp hs
    rw [List.length_map, hx.1]

theorem linesOf_length : (linesOf n x).length = 2 * n := by
  rw [linesOf, columnsOf, List.length_append, List.length_map, List.length_range, hx.1, Nat.two_mul]

theorem rows_eq_map_range : x = (List.range n).map fun r => x.getD r [] := by
  apply List.ext_getElem
  · simp [hx.1]
  · intro r hr _
    simp [hr]

/-- A rule that adds up the lines is a sum over the rows and the columns (44_mask.md R254). -/
theorem sum_linesOf_eq_overLines {g : List Bool → Nat} {f : (Nat → Bool) → Nat}
    (hline : ∀ s, s.length = n → g s = f (lineModule s)) : ((linesOf n x).map g).sum = overLines n x f := by
  have hlines : (linesOf n x).map g = (linesOf n x).map fun s => f (lineModule s) :=
    List.map_congr_left fun s hs => hline s (length_of_mem_linesOf hx s hs)
  have hrows : x.map (fun s => f (lineModule s)) = (List.range n).map fun r => f fun i => x.module r i := by
    conv_lhs => rw [rows_eq_map_range hx]
    rw [List.map_map]
    rfl
  have hcolumns : (columnsOf n x).map (fun s => f (lineModule s)) =
      (List.range n).map fun c => f fun i => x.module i c := by
    rw [columnsOf, List.map_map]
    exact List.map_congr_left fun c _ => congrArg f (lineModule_column x c)
  rw [hlines, linesOf, List.map_append, List.sum_append, hrows, hcolumns]
  rfl

/-- A rule that adds up the lines is at most 2 N times its bound for a line (44_mask.md R259). -/
theorem sum_linesOf_le {g : List Bool → Nat} {bound : Nat} (hline : ∀ s, s.length = n → g s ≤ bound) :
    ((linesOf n x).map g).sum ≤ 2 * n * bound := by
  rw [← linesOf_length hx, ← List.length_map (f := g), ← smul_eq_mul]
  refine List.sum_le_card_nsmul _ _ fun y hy => ?_
  obtain ⟨s, hs, rfl⟩ := List.mem_map.mp hy
  exact hline s (length_of_mem_linesOf hx s hs)

/-! ### The rules in numbers -/

theorem pen1_eq_overLines : pen1 n x = overLines n x (runScore n) :=
  sum_linesOf_eq_overLines hx fun s hs => hs ▸ sum_runPenalty_eq_runScore s

theorem pen3_eq_overLines : pen3 n x = overLines n x (finderScore n) := by
  rw [pen3, ← List.sum_map_mul_left]
  exact sum_linesOf_eq_overLines hx fun s hs => hs ▸ countP_finderLikeAt_eq_finderScore s

theorem darkCount_eq_card : darkCount x = (darkModules n x).card := by
  have hrows : x.map (fun row => row.count true) =
      (List.range n).map fun r => (List.range n).countP (x.module r) := by
    conv_lhs => rw [hx.eq_square]
    rw [square, List.map_map]
    refine List.map_congr_left fun r _ => ?_
    simp [List.count, List.countP_map, Function.comp_def]
  rw [darkCount, hrows, sum_countP_range_eq_card]
  rfl

theorem darkCount_le : darkCount x ≤ n * n := by
  rw [darkCount_eq_card hx]
  exact card_filter_positions_le n _

theorem pen1_le : pen1 n x ≤ 2 * n * (n - 2) :=
  sum_linesOf_le hx fun s hs => hs ▸ sum_runPenalty_le s

theorem pen3_le : pen3 n x ≤ 40 * (2 * n * (n - 10)) := by
  refine Nat.mul_le_mul_left 40 (sum_linesOf_le hx fun s _ => ?_)
  exact List.countP_le_length.trans_eq List.length_range

theorem pen4_le : pen4 n x ≤ 100 := by
  have hdark := darkCount_le hx
  have hdiff : absDiff (20 * darkCount x) (10 * (n * n)) ≤ n * n * 10 := by
    rw [absDiff]
    split_ifs <;> omega
  rw [pen4, darkPenalty]
  exact Nat.mul_le_mul_left 10 (Nat.div_le_of_le_mul hdiff)

end

theorem uniformWindows_eq_filter (n : Nat) (x : Plane) :
    uniformWindows n x = (positions (n - 1)).filter fun m => uniformBlock x m.1 m.2 = true := by
  ext ⟨r, c⟩
  simp only [uniformWindows, positions, Finset.mem_filter, Finset.mem_product, Finset.mem_range, uniformBlock,
    Bool.and_eq_true, decide_eq_true_eq]
  constructor
  · rintro ⟨-, hr, hc, hright, hbelow, hcorner⟩
    exact ⟨by omega, ⟨hright.symm, hbelow.symm⟩, hcorner.symm⟩
  · rintro ⟨hm, ⟨hright, hbelow⟩, hcorner⟩
    exact ⟨by omega, by omega, by omega, hright.symm, hbelow.symm, hcorner.symm⟩

theorem pen2_eq_card (n : Nat) (x : Plane) : pen2 n x = 3 * (uniformWindows n x).card := by
  rw [pen2, sum_countP_range_eq_card, uniformWindows_eq_filter]

theorem pen2_le (n : Nat) (x : Plane) : pen2 n x ≤ 3 * ((n - 1) * (n - 1)) := by
  rw [pen2_eq_card, uniformWindows_eq_filter]
  exact Nat.mul_le_mul_left 3 (card_filter_positions_le (n - 1) _)

/-- Settles O59: each rule of the model is its count over the modules. -/
theorem penaltyRulesInNumbers : Obligations.PenaltyRulesInNumbers := by
  intro n x hx
  refine ⟨pen1_eq_overLines hx, pen2_eq_card n x, pen3_eq_overLines hx, ?_⟩
  rw [pen4, darkPenalty, darkCount_eq_card hx, absDiff_eq_natAbs]
  push_cast
  rfl

/-- Settles O54: the bounds for N modules are largest for N = 177. -/
theorem penaltyBounds : Obligations.PenaltyBounds := by
  intro n x hn hx
  refine ⟨(pen1_le hx).trans ?_, (pen2_le n x).trans ?_, (pen3_le hx).trans ?_, pen4_le hx⟩
  · exact Nat.mul_le_mul (show 2 * n ≤ 354 by omega) (show n - 2 ≤ 175 by omega)
  · exact Nat.mul_le_mul_left 3 (Nat.mul_le_mul (show n - 1 ≤ 176 by omega) (show n - 1 ≤ 176 by omega))
  · exact Nat.mul_le_mul_left 40 (Nat.mul_le_mul (show 2 * n ≤ 354 by omega) (show n - 10 ≤ 167 by omega))

end Sys2Proof.Machine

/-!
PROOFS. Errors: a failed completion, the error a command's `run` returns, and that no step stops (60_exceptions.md
R290–R297).
-/

namespace Sys2Proof.Machine

/-- Settles O7: the engine's turn is the completion of the word in flight, here with the error. -/
theorem failedCompletionChangesOnlyStatus : Obligations.FailedCompletionChangesOnlyStatus := by
  intro s w snap e rest hbusy hnext hrun
  refine ⟨State.failCommand { s with agenda := rest } e, ?_, failCommand_failedWith _ e⟩
  rw [step_completes hbusy hnext, hrun, State.finish_err]

/-! ### The error of a run -/

/-- The code of the error `run` returned, if it returned one (60_exceptions.md R291). -/
def CmdResult.errorCode : CmdResult → Option (BitVec 4)
  | .ok _ => none
  | .err e => some e.code

/-- A check that fails decides the error code, and one that passes leaves it to what follows (60_exceptions.md R293). -/
theorem CmdResult.errorCode_check (c : Prop) [Decidable c] (e : ErrCode) (r : CmdResult) :
    (if c then .err e else r : CmdResult).errorCode = if c then some e.code else r.errorCode :=
  apply_ite CmdResult.errorCode ..

/-- The error of each command is that of its checks in numbers. -/
theorem runInstr_errorCode (i : Instr) (st : Store) : (runInstr i st).errorCode = expectedError i st := by
  cases i with
  | nop | gfmul | gfexp => rfl
  | gflog a | gfinv a =>
    have hzero : a = 0 ↔ a.toNat = 0 := BitVec.toNat_inj.symm
    simp only [runInstr, runGflog, runGfinv, CmdResult.errorCode_check, hzero]
    rfl
  | rsgen | rsenc | rssyn | mxplace | mxmask | mxscore | mxselect =>
    simp only [runInstr, runRsgen, runRsenc, runRssyn, runMxplace, runMxmask, runMxscore, runMxselect,
      CmdResult.errorCode_check]
    rfl
  | eccblk => exact apply_ite CmdResult.errorCode ..
  | mxinit =>
    have hlegal : st.versionArg < 1 ∨ st.versionArg > 40 ↔ ¬ (1 ≤ st.versionArg ∧ st.versionArg ≤ 40) := by omega
    simp only [runInstr, runMxinit, hlegal, ite_not]
    exact apply_ite CmdResult.errorCode ..

/-- Settles O9: the first failing check gives the error of `run`, and the completion is that of what `run` returned. -/
theorem commandErrorsExactly : Obligations.CommandErrorsExactly := by
  intro i s
  rw [← runInstr_errorCode]
  cases hrun : runInstr i s.snap with
  | err e => exact ⟨_, exec_err hrun, failCommand_failedWith s e⟩
  | ok w => exact ⟨_, exec_ok hrun, rfl, rfl, rfl, rfl⟩

/-! ### Every step goes on -/

/-- The engine's turn is a wait or a completion. -/
theorem engineTurn_goesOn (s : State) : ∃ t, engineTurn s = .next t := by
  cases hengine : s.engine with
  | idle => exact ⟨s, engineTurn_idle hengine⟩
  | busy w snap => exact ⟨s.finish (runWord w snap), engineTurn_busy hengine⟩

/-- Settles O12: a step is the engine's turn, a host access or a power-on reset, and each of them answers a state. -/
theorem everyStepGoesOn : Obligations.EveryStepGoesOn := by
  intro s
  obtain ⟨-, hstep⟩ | ⟨rest, -, hstep⟩ | ⟨acc, rest, -, hstep⟩ | ⟨rest, -, hstep⟩ := step_cases s
  · obtain ⟨t, ht⟩ := engineTurn_goesOn s
    exact ⟨t, hstep.trans ht⟩
  · obtain ⟨t, ht⟩ := engineTurn_goesOn { s with agenda := rest }
    exact ⟨t, hstep.trans ht⟩
  · exact ⟨_, hstep⟩
  · exact ⟨_, hstep⟩

end Sys2Proof.Machine

/-!
PROOFS. What the host reads after a reset, the two resets as steps, and which buffer bytes the abandonment of a command
touches (70_reset_and_hazards.md R321–R323).
-/

namespace Sys2Proof.Machine

/-! ### The state a reset leaves -/

/-- What both resets establish (70_reset_and_hazards.md R321, R322): the engine is IDLE, every CSR has its reset value
and the latch is clear. -/
structure State.IsReset (t : State) : Prop where
  engine : t.engine = .idle
  csr : t.store.csr = Csrs.reset
  mxvalid : t.store.mxvalid = false
  mxver : t.store.mxver = 0

theorem State.softReset_isReset (s : State) : s.softReset.IsReset where
  engine := s.softReset_engine
  csr := s.softReset_csr
  mxvalid := s.softReset_mxvalid
  mxver := s.softReset_mxver

theorem State.powerOnReset_isReset (s : State) : s.powerOnReset.IsReset := ⟨rfl, rfl, rfl, rfl⟩

/-- The answer to the write that reset the machine leaves it reset. -/
theorem State.IsReset.answer {t : State} (h : t.IsReset) (r : Answer) : (t.answer r).IsReset :=
  ⟨h.engine, h.csr, h.mxvalid, h.mxver⟩

theorem Csrs.reset_scores : ∀ k : Fin 8, Csrs.reset.scores[k] = 0 := by decide

/-- Every CSR but ID has the reset value 0 (10_state.md R34); MDATA shows a module of the plane. -/
theorem State.IsReset.readCsr {t : State} (h : t.IsReset) {r : Csr} (hid : r ≠ .id) (hmdata : r ≠ .mdata) :
    readCsr r t = 0 := by
  obtain ⟨hengine, hcsr, hvalid, hver⟩ := h
  cases r with
  | id => exact absurd rfl hid
  | mdata => exact absurd rfl hmdata
  | status => simp only [Machine.readCsr, statusWord, hengine, hcsr, hvalid, hver]; rfl
  | cmd => rfl
  | score k => simp only [Machine.readCsr, hcsr, Csrs.reset_scores]
  | _ => simp only [Machine.readCsr, hcsr]; rfl

/-- With DONE and ERR clear the line is low (10_state.md R61). -/
theorem State.IsReset.irq {t : State} (h : t.IsReset) : t.irq = false := by
  rw [State.irq, h.csr]
  rfl

/-- Without a valid matrix MDATA cannot be read (10_state.md R51, 20_memory.md R82). -/
theorem hostRead_mdata_refused {t : State} (h : t.store.mxvalid = false) :
    hostRead 0x48 4 t = .error (.busError 0x48) :=
  hostRead_refused ((refused_iff _ _).mpr (.inr (.inr (.inr (.inr (.inr (.inr ⟨rfl, .inl h⟩)))))))

/-! ### The two resets as steps -/

theorem step_powerOn {s : State} {rest : List Event} (h : s.agenda = .powerOn :: rest) :
    step s = .next (State.powerOnReset { s with agenda := rest }) := by
  simp only [step, nextEvent, h, State.event]

/-- Settles O15: the step is the power-on reset, after which SB and CW list no byte. -/
theorem powerOnReset : Obligations.PowerOnReset := by
  intro s rest hagenda
  have hreset := State.powerOnReset_isReset { s with agenda := rest }
  exact ⟨_, step_powerOn hagenda, rfl, rfl, rfl, rfl, rfl, hreset.irq, rfl, fun _ => hreset.readCsr,
    hostRead_mdata_refused hreset.mxvalid, fun _ => rfl⟩

/-- A write to CTRL with bit 31 set passes at all times and is the soft reset (10_state.md R37, 20_memory.md R89). -/
theorem step_softReset {s : State} {v : Word} {rest : List Event} (hv : v.getLsbD 31 = true)
    (h : s.agenda = .host (.write 0x04 4 v) :: rest) :
    step s = .next ((State.softReset { s with agenda := rest }).answer .written) := by
  rw [step_host h, State.access_write_ok (hostWrite_ctrl v _), writeCsr_ctrl_reset _ hv]

/-- Settles O16: while IDLE the soft reset touches the CSRs and the latch of the store only. -/
theorem softResetWhileIdle : Obligations.SoftResetWhileIdle := by
  intro s v rest hidle hv hagenda
  have hreset := (State.softReset_isReset { s with agenda := rest }).answer .written
  have hstep := step_softReset hv hagenda
  rw [State.softReset_idle (s := { s with agenda := rest }) hidle] at hreset hstep
  exact ⟨_, hstep, hidle, rfl, rfl, rfl, rfl, hreset.irq, rfl, fun _ => hreset.readCsr, fun _ => rfl, rfl⟩

/-! ### The destination range of a command -/

/-- A list of bytes placed in CW from i on lies at consecutive addresses from 0x2000 + i on (20_memory.md R81). -/
theorem cwBytes_addr {i : Nat} {l : List Byte} {p : Nat × Byte}
    (h : p ∈ (placeAt i l).map fun p => (cwAddr p.1, p.2)) : 0x2000 + i ≤ p.1 ∧ p.1 < 0x2000 + i + l.length := by
  obtain ⟨q, hq, rfl⟩ := List.mem_map.mp h
  obtain ⟨j, hj, rfl⟩ := (placeAt_mem _ _ _).mp hq
  simp only [cwAddr]
  omega

/-- A list of bytes placed in SB from 0 on lies at consecutive addresses from 0x1000 on (20_memory.md R81). -/
theorem sbBytes_addr {l : List Byte} {p : Nat × Byte} (h : p ∈ (placeAt 0 l).map fun p => (sbAddr p.1, p.2)) :
    0x1000 ≤ p.1 ∧ p.1 < 0x1000 + l.length := by
  obtain ⟨q, hq, rfl⟩ := List.mem_map.mp h
  obtain ⟨j, hj, rfl⟩ := (placeAt_mem _ _ _).mp hq
  simp only [sbAddr]
  omega

/-- A command that succeeds writes buffer bytes in its destination range only (the table of 70_reset_and_hazards.md
R323). -/
theorem runInstr_bytes_destination {i : Instr} {snap : Store} {w : Writes} (h : runInstr i snap = .ok w) :
    ∀ p ∈ w.bytes, DestinationRange i snap p.1 := by
  intro p hp
  refine ⟨by rw [← runInstr_errorCode, h]; rfl, ?_⟩
  cases i with
  | rsgen n =>
    simp only [runInstr, runRsgen] at h
    split_ifs at h
    cases h
    have haddr := sbBytes_addr hp
    rw [genPoly_length] at haddr
    exact ⟨haddr.1, Nat.le_of_lt_succ haddr.2⟩
  | rsenc n k =>
    simp only [runInstr, runRsenc] at h
    split_ifs at h with harg hrange
    cases h
    rw [Writes.bytes, List.map_nil, List.append_nil] at hp
    have haddr := cwBytes_addr hp
    rwa [rsRem_length _ _ fun hn => harg (.inl hn)] at haddr
  | rssyn n l =>
    simp only [runInstr, runRssyn] at h
    split_ifs at h
    cases h
    have haddr := sbBytes_addr hp
    rwa [syndromes_length] at haddr
  | eccblk =>
    simp only [runInstr, runEccblk] at h
    split_ifs at h with hlegal
    cases h
    obtain ⟨-, -, hn, -⟩ := hlegal
    rw [Writes.bytes, List.map_nil, List.append_nil] at hp
    have haddr := cwBytes_addr hp
    rwa [encodeBlocks_length _ _ (cwList_length _ _ _) (Nat.ne_of_gt hn)] at haddr
  | nop | gfmul | gfexp =>
    cases h
    cases hp
  | gflog | gfinv | mxinit | mxplace | mxmask | mxscore | mxselect =>
    simp only [runInstr, runGflog, runGfinv, runMxinit, runMxplace, runMxmask, runMxscore, runMxselect] at h
    split_ifs at h
    cases h
    cases hp

/-- What the command in flight would have written is in its destination range; a word that is no command and a command
that would have failed would have written nothing (70_reset_and_hazards.md R323). -/
theorem pendingWrites_destination {w : Word} {snap : Store} {p : Nat × Byte}
    (hp : p ∈ (pendingWrites w snap).bytes) :
    ∃ i, decode w = .ok i ∧ DestinationRange i snap p.1 := by
  unfold pendingWrites at hp
  split at hp
  case h_1 ws hrun =>
    obtain ⟨i, hdecode, hi⟩ := runWord_ok hrun
    exact ⟨i, hdecode, runInstr_bytes_destination hi p hp⟩
  case h_2 => cases hp

/-- An abandonment leaves every byte alone that the command would not have written. -/
theorem Store.abandon_byte (st : Store) {w : Writes} (k : Nat) {a : Nat} (h : ∀ p ∈ w.bytes, p.1 ≠ a) :
    (st.abandon w k).mem.byte a = st.mem.byte a := by
  refine Memory.byte_setBytes_of_not_mem _ _ _ fun q hq => ?_
  obtain ⟨p, hp, rfl⟩ := List.mem_map.mp hq
  exact h p hp

/-- Settles O17: the soft reset abandons the command, which frees bytes of its destination range only. -/
theorem softResetAbandonsTheCommand : Obligations.SoftResetAbandonsTheCommand := by
  intro s w v snap rest hbusy hv hagenda
  have hreset := (State.softReset_isReset { s with agenda := rest }).answer .written
  have hstep := step_softReset hv hagenda
  rw [State.softReset_busy (s := { s with agenda := rest }) hbusy] at hreset hstep
  refine ⟨_, hstep, rfl, rfl, rfl, rfl, rfl, fun _ => hreset.readCsr, fun a ha => ?_⟩
  refine s.store.abandon_byte s.abandons fun p hp hpa => ha ?_
  rw [← hpa]
  exact pendingWrites_destination hp

end Sys2Proof.Machine
